-- ==== Sys2Proof/Word.lean ====
section
/-! DEFINITION. Word.lean: the value types of the EM-2240 that every layer shares.
Numbers that the manual treats as quantities are `Nat` or `Int`; only what it treats as bits (bytes of
a message, a CRC, a wrapping count, a set of event numbers, the dither register) is a `BitVec`. -/
namespace Sys2Proof.Machine

/-- One byte of a message, an answer or a report (R173, R188). -/
abbrev Byte := BitVec 8

/-- A CRC-16 value, and every other 16-bit wrapping word (R176). -/
abbrev Half := BitVec 16

/-- A 32-bit wrapping count of frames (R133). -/
abbrev FrameCount := BitVec 32

/-- A quantity "given per primary", red, green and blue (00_scope, Conventions). -/
structure Prim (α : Type) where
  r : α
  g : α
  b : α
  deriving DecidableEq, Repr, Inhabited

/-- One of the two command ports (R173). -/
inductive Port where
  | a
  | b
  deriving DecidableEq, Repr, Inhabited

/-- The edge a trim entry works on (R7). -/
inductive Edge where
  | top
  | bottom
  | left
  | right
  deriving DecidableEq, Repr, Inhabited

/-- One trim entry: edge, width 1..8 pixels, factor 128..256 in units of 1/256 (R7). -/
structure Trim where
  edge : Edge
  width : Nat
  factor : Nat
  deriving DecidableEq, Repr, Inhabited

/-- One complete calibration of one tile (R7).  `matrix.r.g` is M[R][G]: the output primary first. -/
structure Bank where
  matrix : Prim (Prim Int)
  gains : Prim Nat
  thetaRef : Int
  thermal : Prim Int
  aging : Prim Nat
  trims : List Trim
  deriving DecidableEq, Repr, Inhabited

/-- The five groups of fields of a bank: WRITE_BANK's groups (R111) and the groups in which a bank is held
in the record store, "each group in words of its own" (R148).  THERMAL holds the reference temperature too. -/
inductive Group where
  | matrix
  | gains
  | thermal
  | aging
  | trims
  deriving DecidableEq, Repr, Inhabited

/-- The single fields of a bank that lie in array words (R7, R148).  The trims are held as their number and, for each entry, its edge, its
width and its factor. -/
inductive BankField where
  | matrix (row col : Fin 3)
  | gain (c : Fin 3)
  | thetaRef
  | thermal (c : Fin 3)
  | aging (c : Fin 3)
  | trimCount
  | trimEdge (n : Nat)
  | trimWidth (n : Nat)
  | trimFactor (n : Nat)
  deriving DecidableEq, Repr

/-- Which of a record's two banks (R1). -/
inductive BankIx where
  | bank0
  | bank1
  deriving DecidableEq, Repr, Inhabited

/-- The kinds of drift word: those with temperature, hours and flags, those with target gains, those with
applied gains.  R71 names "the applied gain words" apart from the rest. -/
inductive DriftPart where
  | reading
  | target
  | applied
  deriving DecidableEq, Repr, Inhabited

/-- A word of one slot of the protected array (R148).  How many words a group takes is not stated, so a
word of a group carries an index within the group and no count is fixed. -/
inductive ArrayWord where
  | identity
  | state
  | bank (ix : BankIx) (group : Group) (index : Nat)
  | drift (part : DriftPart) (index : Nat)
  deriving DecidableEq, Repr, Inhabited

/-- A stored word that holds flipped bits: the slot, the word, and which of its bits are flipped.  One bit
is a single-bit error, two or more an uncorrectable one (R148 to R150). -/
structure Damage where
  slot : Nat
  word : ArrayWord
  bits : List Nat
  deriving DecidableEq, Repr, Inhabited

/-- One flip of one stored bit: the outside event that puts errors into the store (08, opening). -/
structure Upset where
  slot : Nat
  word : ArrayWord
  bit : Nat
  deriving DecidableEq, Repr, Inhabited

/-- A pixel's three 16-bit components (R62). -/
abbrev Pixel := Prim Half

/-- A sparse table: key and value pairs, keys strictly rising, no value equal to the table's default. -/
abbrev Table (α : Type) := List (Nat × α)

end Sys2Proof.Machine
end

