-- ==== Sys2Proof/Syntax.lean ====
section
/-! DEFINITION. Syntax.lean: the commands of the block, one constructor per row of spec/opcode_table.json.
A row of the Command Executor has no operands of its own: they are the payload of the message at the head
of the queue the executor takes from (R177), which a MESSAGE_WRITE put there.  A row of the Presence Unit
takes the head of the intake queue (R59), which a REPORT_ARRIVAL put there. -/
namespace Sys2Proof
open Machine

/-- One command or event, in the order of spec/opcode_table.json. -/
inductive Instr where
  /-- RESET_N_RELEASE (R185). -/
  | resetNRelease
  /-- PORT_B_ATTACH: the rise of ATTACH_B (R178). -/
  | portBAttach
  /-- PORT_B_DETACH: the fall of ATTACH_B (R178). -/
  | portBDetach
  /-- MESSAGE_WRITE: a transaction on a port, with every whole byte clocked in, the type byte first (R173, R174). -/
  | messageWrite (port : Port) (bytes : List Byte)
  /-- ANSWER_READ: a transaction of type 02h on a port, with the number of bytes clocked after the type byte (R175). -/
  | answerRead (port : Port) (clocked : Nat)
  | unknownCommand
  | identify
  | setParameter
  | readParameter
  | setZone
  | readZones
  | wallReset
  | createRecord
  | findRecord
  | readRecord
  | scanRecords
  | retireRecord
  | readDrift
  | setBatchDefault
  | clearBatchDefault
  | readBatchDefault
  | placeSeat
  | vacateSeat
  | readSeat
  | openEdit
  | writeBank
  | readPending
  | releaseEdit
  | commitRecord
  | groupAdd
  | groupRemove
  | groupClear
  | groupCommit
  | queryCommit
  | selectSource
  | readTiming
  | readIntegrity
  | loadBegin
  | loadRecord
  | loadAbort
  | loadStatus
  | readEvents
  | clearEvents
  | setEventEnables
  | readCounters
  | clearCounters
  /-- REPORT_ARRIVAL: samples of TRL_DATA at successive rising edges of TRL_CLK, the last of them the one with which
  a report arrives (R51). -/
  | reportArrival (samples : List Bool)
  | announce
  | status
  | lost
  /-- FRAME_REF_PULSE: a rising edge, so many µs after the moment the FTU's clock stands at (R134). -/
  | frameRefPulse (elapsed : Nat)
  | internalExpiry
  | referenceLoss
  | holdExpired
  | loadTimeout
  | seatStale
  /-- PIXEL_BURST: a pixel marked as a start, with the seat tag of PIN_SEAT (R62). -/
  | pixelBurst (tag : BitVec 11) (pixel : Pixel)
  /-- PIXEL: a pixel not marked as a start (R62, R80). -/
  | pixel (pixel : Pixel)
  deriving DecidableEq, Repr

end Sys2Proof
end

