-- ==== Sys2Proof/Decode.lean ====
section
/-! DEFINITION. Decode.lean: the commands that words spell by the opcode table's bits.  No row of
spec/opcode_table.json gives bits (the block has no instruction words), so no word spells a command. -/
namespace Sys2Proof

/-- The command a word of `nbits` bits spells: none, for no row of the table gives bits. -/
def decodeTableWord (_nbits _w : Nat) : Option Instr := none

end Sys2Proof
end

