-- ==== Sys2Proof/Config.lean ====
section
/-! DEFINITION. Config.lean: what one implementation fixes and the free values.  Every constant here is
opaque: nothing in Lean can evaluate it, so a claim about it holds whatever it is. -/
namespace Sys2Proof.Config
open Machine

/-- The silicon revision letter IDENTIFY answers, A to Z counted from 0 (R186 states no letter). -/
opaque siliconRevision : Fin 26

/-- Which of the eight legal orders of one boundary's work is taken, when some stored word is damaged and
the order can be seen (R94, R123, R157: each pair may be taken in either order).  The argument is the
number of the draw. -/
opaque boundaryOrder : Nat → Fin 8

/-- What the fields in a bank's uncorrectable words read as: "the values read, which are not to be trusted" (R21,
R112).  The arguments are the damaged words and the bank as it was written. -/
opaque bankAsRead : List Damage → Bank → Bank

/-- Which word of its group a field of a bank lies in: R148 gives each group words of its own, and not how its fields are spread
over them (log 15). -/
opaque bankWord : BankField → Nat

/-- The output components of a pixel that arrives before any start pixel since the release of RESET_N (R62
and R64 give it no burst).  The argument is the number of the draw. -/
opaque strayPixel : Nat → Pixel

/-- The seat tag that goes with such a pixel. -/
opaque straySeat : Nat → BitVec 11

/-- The two bytes by which READ_TIMING carries a duration above 65535 µs, which R188's two bytes cannot hold
(the loss delay of R133 reaches 75000). -/
opaque wideDuration : Nat → Half

/-- The fields, other than the slot, of a last expiry that is none, as QUERY_COMMIT carries them (R188
gives the slot alone). -/
opaque absentExpiryFrame : FrameCount
opaque absentExpiryCount : Half

/-- The fields, other than the slot, of a last uncorrectable finding that is none, as READ_INTEGRITY
carries them (R188 gives the slot alone). -/
opaque absentFindingFrame : FrameCount
opaque absentFindingLocation : Byte
opaque absentFindingReader : Byte

end Sys2Proof.Config
end

