-- ==== Sys2Proof/Machine/State.lean ====
section
/-! DEFINITION. Machine/State.lean: everything the EM-2240 holds, as plain data, and its value right after
a release of RESET_N.  The state is grouped by the block that owns it (00_scope, Block overview). -/
namespace Sys2Proof.Machine

/-! ### Record Table (R1, R10, R12, R17, R148, R158) -/

/-- Where a record stands in its life (R2). -/
inductive RecordState where
  | free
  | new
  | live
  | suspect
  deriving DecidableEq, Repr, Inhabited

/-- The holder of a pending bank (R1, R104). -/
inductive Hold where
  | none
  | portA
  | portB
  | load
  deriving DecidableEq, Repr, Inhabited

/-- Where a pending bank stands in an edit or a load (R104). -/
inductive Condition where
  | closed
  | opened
  | frozen
  | scheduled
  deriving DecidableEq, Repr, Inhabited

/-- The cleared bank of a new or FREE record (R3, R4): the values a bank word of zero reads as. -/
def Bank.cleared : Bank where
  matrix := ⟨⟨0, 0, 0⟩, ⟨0, 0, 0⟩, ⟨0, 0, 0⟩⟩
  gains := ⟨0, 0, 0⟩
  thetaRef := 0
  thermal := ⟨0, 0, 0⟩
  aging := ⟨0, 0, 0⟩
  trims := []

/-- One record of the record store: the fields of R1, with the hold timer and the expected CRC that the slot
directory keeps beside them (R148).  The slot is the record's key in the store. -/
structure Record where
  state : RecordState
  identity : Nat
  batch : Nat
  seat : Option Nat
  lastSeen : FrameCount
  bank0 : Bank
  bank1 : Bank
  active : BankIx
  generation : Half
  bankCheck : Half
  hold : Hold
  condition : Condition
  pendingDamaged : Bool
  createdByLoad : Bool
  theta : Option Int
  hours : Nat
  target : Prim Nat
  applied : Prim Nat
  ceiling : Bool
  regressed : Bool
  holdTimer : Nat
  expectedCrc : Half
  deriving DecidableEq, Repr, Inhabited

/-- What a FREE slot reads as (R1), and so what an unlisted slot of the store reads as. -/
def Record.blank : Record where
  state := .free
  identity := 0
  batch := 0
  seat := none
  lastSeen := 0
  bank0 := Bank.cleared
  bank1 := Bank.cleared
  active := .bank0
  generation := 0
  bankCheck := 0
  hold := .none
  condition := .closed
  pendingDamaged := false
  createdByLoad := false
  theta := none
  hours := 0
  target := ⟨0, 0, 0⟩
  applied := ⟨0, 0, 0⟩
  ceiling := false
  regressed := false
  holdTimer := 0
  expectedCrc := 0

/-- An entry of the Identity Index, keyed by the identity: the slot and the record's batch (R10, R148). -/
structure IndexEntry where
  slot : Nat
  batch : Nat
  deriving DecidableEq, Repr, Inhabited

/-- A filled entry of the Batch Default Table, keyed by the entry number (R17). -/
structure BatchEntry where
  batch : Nat
  bank : Bank
  deriving DecidableEq, Repr, Inhabited

/-- The location class of a word found uncorrectable (R150, R158). -/
inductive Location where
  | identity
  | state
  | activeBank
  | pendingBank
  | drift
  | freeSlot
  deriving DecidableEq, Repr, Inhabited

/-- The block whose read found an error (R158). -/
inductive Reader where
  | cd
  | dt
  | cu
  | cx
  | bl
  | sc
  | pu
  | rt
  deriving DecidableEq, Repr, Inhabited

/-- The last uncorrectable finding (R158). -/
structure Finding where
  frame : FrameCount
  slot : Nat
  location : Location
  reader : Reader
  deriving DecidableEq, Repr, Inhabited

/-! ### Notification Unit (R189, R190, R195) -/

/-- The fifteen event kinds, in the order of their numbers (R190). -/
inductive Event where
  | commitDone
  | holdExpired
  | loadDone
  | loadAborted
  | messageDiscarded
  | poolLow
  | refFallback
  | seatStale
  | identityClash
  | recordSuspect
  | ceiling
  | reportGap
  | reportOverflow
  | driftBatch
  | unrecordedArrival
  deriving DecidableEq, Repr, Inhabited

/-- The thirteen counters, in the order of their numbers (R195). -/
inductive Counter where
  | sec
  | ded
  | discardedA
  | discardedB
  | reportsMalformed
  | reportsDropped
  | reportGaps
  | clashes
  | reclaims
  | unrecordedArrivals
  | hoursRegressed
  | burstsUnseated
  | overlengthBursts
  deriving DecidableEq, Repr, Inhabited

/-- The values of the thirteen counters, each 0..65535 (R195). -/
structure Counters where
  sec : Nat
  ded : Nat
  discardedA : Nat
  discardedB : Nat
  reportsMalformed : Nat
  reportsDropped : Nat
  reportGaps : Nat
  clashes : Nat
  reclaims : Nat
  unrecordedArrivals : Nat
  hoursRegressed : Nat
  burstsUnseated : Nat
  overlengthBursts : Nat
  deriving DecidableEq, Repr, Inhabited

/-- A command port's pending set and enable set, bit n standing for event number n (R189, R192). -/
structure EventSets where
  pending : BitVec 15
  enabled : BitVec 15
  deriving DecidableEq, Repr, Inhabited

/-- The Notification Unit, with the level of the ATTACH_B line it adds Port B's events by (R189). -/
structure Nu where
  a : EventSets
  b : EventSets
  attachB : Bool
  counters : Counters
  deriving DecidableEq, Repr, Inhabited

/-- What a read of the record store can change: the records, the flipped bits that lie in them, the last
uncorrectable finding, and the event sets and counters (R148 to R154, R158). -/
structure Store where
  records : Table Record
  damage : List Damage
  finding : Option Finding
  nu : Nu
  deriving DecidableEq, Repr, Inhabited

/-! ### Presence Unit and Tile Return Link (R27, R53, R57) -/

/-- What hangs in a seat (R27). -/
inductive SeatKind where
  | vacant
  | placed (slot : Nat)
  | unrecorded (identity batch : Nat)
  deriving DecidableEq, Repr, Inhabited

/-- Where a placement came from (R27). -/
inductive Origin where
  | reported
  | manual
  deriving DecidableEq, Repr, Inhabited

/-- How far the part trusts that the tile is still there (R27). -/
inductive Freshness where
  | fresh
  | stale
  | unconfirmed
  deriving DecidableEq, Repr, Inhabited

/-- One entry of the Seat Table (R27). -/
structure Seat where
  kind : SeatKind
  origin : Origin
  fresh : Freshness
  since : Nat
  deriving DecidableEq, Repr, Inhabited

/-- A VACANT entry, which reads as REPORTED, FRESH and 0 (R27). -/
def Seat.vacant : Seat where
  kind := .vacant
  origin := .reported
  fresh := .fresh
  since := 0

/-- The kind of a report, with what only that kind carries (R49). -/
inductive ReportKind where
  | announce
  | status (temperature : Option Int)
  | lost
  deriving DecidableEq, Repr, Inhabited

/-- An entry of the intake queue: a good report's fields with hours and temperature clamped, and the gap mark (R49, R53).  A
LOST carries no identity, batch or hours; they are 0 in its entry and nothing reads them. -/
structure Report where
  distPort : Nat
  chain : Nat
  sequence : Byte
  kind : ReportKind
  identity : Nat
  batch : Nat
  hours : Nat
  check : Half
  gap : Bool
  deriving DecidableEq, Repr, Inhabited

/-- Where the sampling of TRL_DATA stands (R51): between frames, with the idle periods counted, up to the 16 that a frame needs before
it; in a frame, behind its last byte's stop bit, with the idle periods counted; or in a byte of a frame, behind its start bit, with the
bits sampled.  `bytes` are the frame's whole bytes so far. -/
inductive Line where
  | between (idle : Nat)
  | behind (bytes : List Byte) (idle : Nat)
  | within (bytes : List Byte) (bits : List Bool)
  deriving DecidableEq, Repr, Inhabited

/-- The Tile Return Link's intake: the queue, for each distribution port the last sequence, and the line (R51, R53, R57). -/
structure Trl where
  queue : List Report
  lastSeq : Table Byte
  line : Line
  deriving DecidableEq, Repr, Inhabited

/-! ### Correction Datapath (R62, R67, R72, R78 to R80) -/

/-- The lit kinds of snapshot entry (R67). -/
inductive LitKind where
  | record
  | batch
  | unity
  deriving DecidableEq, Repr, Inhabited

/-- One entry of the Seat Snapshot (R67). -/
inductive SnapEntry where
  | dark
  | lit (kind : LitKind) (matrix : Prim (Prim Int)) (trims : List Trim) (gains : Prim Nat)
  deriving DecidableEq, Repr, Inhabited

/-- The frame settings latched beside the entries (R67).  DITHER_MODE is TEMPORAL where `temporal` is set. -/
structure Settings where
  cols : Nat
  rows : Nat
  temporal : Bool
  deriving DecidableEq, Repr, Inhabited

/-- A burst in progress: its tag, what it took at its first pixel, and the index of its next pixel (R62, R63). -/
structure Burst where
  tag : BitVec 11
  entry : SnapEntry
  settings : Settings
  withdrawn : Bool
  index : Nat
  deriving DecidableEq, Repr, Inhabited

/-- A pixel on the pixel output (R64): POUT_START, POUT_SEAT and POUT_DATA. -/
structure OutPixel where
  start : Bool
  tag : BitVec 11
  data : Pixel
  deriving DecidableEq, Repr, Inhabited

/-- The Correction Datapath. -/
structure Cd where
  snapshot : Table SnapEntry
  settings : Settings
  withdrawn : Bool
  dither : BitVec 15
  seedArmed : Bool
  seedLoad : Option Nat
  running : Table Nat
  readable : Table Nat
  burst : Option Burst
  output : Option OutPixel
  deriving DecidableEq, Repr, Inhabited

/-! ### Command Ports, Commit Unit (R104, R117, R122, R125, R174, R175, R179) -/

/-- A message in a port's message queue (R174, R188). -/
structure Message where
  code : Byte
  tag : Byte
  payload : List Byte
  deriving DecidableEq, Repr, Inhabited

/-- An answer in a port's answer queue (R175, R188). -/
structure Answer where
  tag : Byte
  code : Byte
  payload : List Byte
  deriving DecidableEq, Repr, Inhabited

/-- One write zone: a seat range, empty where the lower bound exceeds the upper (R179). -/
structure Zone where
  lower : Nat
  upper : Nat
  deriving DecidableEq, Repr, Inhabited

/-- A port's four write zones (R179). -/
structure Zones where
  z0 : Zone
  z1 : Zone
  z2 : Zone
  z3 : Zone
  deriving DecidableEq, Repr, Inhabited

/-- An empty zone, as after power-on and after a detach (R178, R179).  DESIGN CHOICE (log 3): the bounds. -/
def Zone.void : Zone := ⟨1, 0⟩

/-- A port's last commit outcome (R125). -/
structure CommitOutcome where
  frame : FrameCount
  committed : Nat
  failed : Nat
  firstFailed : Option Nat
  deriving DecidableEq, Repr, Inhabited

/-- A port's last expiry (R107). -/
structure Expiry where
  frame : FrameCount
  count : Nat
  lowest : Nat
  deriving DecidableEq, Repr, Inhabited

/-- What the part keeps for one command port: its queues, the bytes of its last answer read, its zones, and
what the Commit Unit keeps for it. -/
structure PortState where
  messages : List Message
  answers : List Answer
  miso : List Byte
  zones : Zones
  commitList : List Nat
  scheduled : List Nat
  outcome : CommitOutcome
  expiry : Option Expiry
  deriving DecidableEq, Repr, Inhabited

/-! ### Frame Timing Unit (R133) -/

/-- A source of boundaries (R133). -/
inductive Source where
  | external
  | internal
  deriving DecidableEq, Repr, Inhabited

/-- The reference monitor (R133, R135). -/
inductive Monitor where
  | noReference
  | acquiring (count : Nat)
  | locked
  deriving DecidableEq, Repr, Inhabited

/-- The Frame Timing Unit.  Moments are µs of CLK_CORE since the release of RESET_N; `now` is the moment the
part stands at. -/
structure Ftu where
  now : Nat
  current : Source
  requested : Source
  switchPending : Bool
  expiryHeld : Bool
  monitor : Monitor
  lastPulse : Option Nat
  newer : Option Nat
  older : Option Nat
  lastBoundary : Nat
  nextExpiry : Nat
  frameCount : FrameCount
  deriving DecidableEq, Repr, Inhabited

/-! ### Bulk Load Engine (R160) and Parameter Set (R182) -/

/-- Where the load stands (R160). -/
inductive LoadState where
  | idle
  | active
  | committing
  | done
  | aborted
  deriving DecidableEq, Repr, Inhabited

/-- Why the load was aborted (R160, R168). -/
inductive Reason where
  | none
  | check
  | duplicate
  | held
  | zone
  | poolEmpty
  | byCommand
  | timeout
  | detached
  | wallReset
  deriving DecidableEq, Repr, Inhabited

/-- The load (R160), with the load's scheduled set (R122).  `count` is the loaded count of a load that has
ended; while it runs the loaded count is the length of the list. -/
structure Load where
  state : LoadState
  owner : Option Port
  remaining : Int
  lastSlot : Option Nat
  list : List Nat
  count : Nat
  timer : Nat
  committed : Nat
  failed : Nat
  firstFailed : Option Nat
  reason : Reason
  scheduled : List Nat
  deriving DecidableEq, Repr, Inhabited

/-- The Parameter Set (R182).  The two-valued parameters are Booleans: TEMPORAL and on are `true`. -/
structure Params where
  headroomLimit : Nat
  slewStep : Nat
  fallbackGain : Nat
  ditherTemporal : Bool
  ditherSeed : Nat
  tileCols : Nat
  tileRows : Nat
  autoCreate : Bool
  autoReclaim : Bool
  poolLowThreshold : Nat
  statusTimeout : Nat
  holdTimeout : Nat
  reportFence : Nat
  nominalPeriod : Nat
  scrubRate : Nat
  driftGap : Nat
  deriving DecidableEq, Repr, Inhabited

/-! ### The whole part -/

/-- The state of the EM-2240, with the queue of commands that wait.  `upsets` holds the bit flips that are
still to come, `draws` counts the free values drawn, and `seatCheckDue` stands between the ageing of seats at a
boundary and the check that makes seats STALE; the three are the model's own (logs 5, 6 and 8). -/
structure State where
  store : Store
  index : Table (Option IndexEntry)
  freeQueue : List Nat
  batches : Table (Option BatchEntry)
  seats : Table Seat
  trl : Trl
  driftCounter : Nat
  portA : PortState
  portB : PortState
  ftu : Ftu
  cd : Cd
  cursor : Nat
  load : Load
  params : Params
  lastTaken : Port
  seatCheckDue : Bool
  draws : Nat
  upsets : List Upset
  pending : List Instr
  deriving DecidableEq, Repr

/-! ### Reset (R185, and the power-on value of each item in its own rule) -/

/-- All counters at 0 (R195). -/
def Counters.zero : Counters := ⟨0, 0, 0, 0, 0, 0, 0, 0, 0, 0, 0, 0, 0⟩

/-- Both sets empty (R189). -/
def EventSets.empty : EventSets := ⟨0, 0⟩

/-- The outcome after power-on (R125). -/
def CommitOutcome.reset : CommitOutcome := ⟨0, 0, 0, none⟩

/-- The defaults of the Parameter Set (R182). -/
def Params.default : Params where
  headroomLimit := 32768
  slewStep := 8
  fallbackGain := 24576
  ditherTemporal := true
  ditherSeed := 0x2D1B
  tileCols := 128
  tileRows := 128
  autoCreate := true
  autoReclaim := false
  poolLowThreshold := 32
  statusTimeout := 600
  holdTimeout := 18000
  reportFence := 48
  nominalPeriod := 16667
  scrubRate := 1
  driftGap := 0

/-- A port right after reset, with the zones given. -/
def PortState.reset (zones : Zones) : PortState where
  messages := []
  answers := []
  miso := []
  zones := zones
  commitList := []
  scheduled := []
  outcome := CommitOutcome.reset
  expiry := none

/-- Port A's zones after power-on: zone 0 is 0..1535, the others empty (R179). -/
def Zones.resetA : Zones := ⟨⟨0, 1535⟩, Zone.void, Zone.void, Zone.void⟩

/-- Port B's zones after power-on and after a detach: all empty (R178, R179). -/
def Zones.resetB : Zones := ⟨Zone.void, Zone.void, Zone.void, Zone.void⟩

/-- The Frame Timing Unit after power-on (R133). -/
def Ftu.reset : Ftu where
  now := 0
  current := .internal
  requested := .external
  switchPending := true
  expiryHeld := false
  monitor := .noReference
  lastPulse := none
  newer := none
  older := none
  lastBoundary := 0
  nextExpiry := 16667
  frameCount := 0

/-- The Correction Datapath after power-on (R67, R79, R80). -/
def Cd.reset : Cd where
  snapshot := []
  settings := ⟨128, 128, true⟩
  withdrawn := false
  dither := 0x2D1B
  seedArmed := false
  seedLoad := none
  running := []
  readable := []
  burst := none
  output := none

/-- The load after power-on (R160). -/
def Load.reset : Load where
  state := .idle
  owner := none
  remaining := 0
  lastSlot := none
  list := []
  count := 0
  timer := 0
  committed := 0
  failed := 0
  firstFailed := none
  reason := .none
  scheduled := []

/-- The record store after power-on: every slot FREE (R6), SEC and DED 0 and no finding (R158). -/
def Store.reset (attachB : Bool) : Store where
  records := []
  damage := []
  finding := none
  nu := ⟨EventSets.empty, EventSets.empty, attachB, Counters.zero⟩

/-- The machine right after a release of RESET_N, with ATTACH_B low (DESIGN CHOICE, log 2) and no command
waiting. -/
def State.reset : State where
  store := Store.reset false
  index := []
  freeQueue := List.range 2048
  batches := []
  seats := []
  trl := ⟨[], [], .between 0⟩
  driftCounter := 0
  portA := PortState.reset Zones.resetA
  portB := PortState.reset Zones.resetB
  ftu := Ftu.reset
  cd := Cd.reset
  cursor := 0
  load := Load.reset
  params := Params.default
  lastTaken := .b
  seatCheckDue := false
  draws := 0
  upsets := []
  pending := []

/-- Why the part stops: it does not.  The spec names no condition on which the EM-2240 stops taking events. -/
inductive Fault where
  /-- Raised by no command of this model; it only gives the outcome type a fault to name (safe). -/
  | notRaised
  deriving DecidableEq, Repr

/-- Why a command has no meaning. -/
inductive Refusal where
  /-- Raised by an arm of `exec` whose command has no meaning in the model (safe).  No arm raises it. -/
  | notModelled (mnemonic : String)
  deriving DecidableEq, Repr

end Sys2Proof.Machine
end

