-- ==== Sys2Proof/Machine/Tables.lean ====
section
/-! DEFINITION. Machine/Tables.lean: sparse tables in one canonical form, and small list helpers. -/
namespace Sys2Proof.Machine

variable {α β : Type}

/-- The value at a key: the table's default where the key is not listed. -/
def Table.get (d : α) : Table α → Nat → α
  | [], _ => d
  | (k, v) :: t, n => if k = n then v else Table.get d t n

/-- The table with a value at a key, in canonical form: a default value removes the entry. -/
def Table.set [DecidableEq α] (d : α) (n : Nat) (v : α) : Table α → Table α
  | [] => if v = d then [] else [(n, v)]
  | (k, w) :: t =>
    if n < k then (if v = d then (k, w) :: t else (n, v) :: (k, w) :: t)
    else if n = k then (if v = d then t else (n, v) :: t)
    else (k, w) :: Table.set d n v t

/-- The keys listed, ascending in a canonical table. -/
def Table.keys (t : Table α) : List Nat := t.map Prod.fst

/-- Every listed value replaced, by its key; entries that become the default are removed. -/
def Table.mapEntries [DecidableEq α] (d : α) (f : Nat → α → α) (t : Table α) : Table α :=
  (t.map fun e => (e.1, f e.1 e.2)).filter fun e => decide (e.2 ≠ d)

/-- The first key, in the table's order, whose value passes a test. -/
def Table.findKey (p : α → Bool) (t : Table α) : Option Nat :=
  (t.find? fun e => p e.2).map Prod.fst

/-- The canonical form: keys strictly rising, and no value equal to the default. -/
abbrev Table.wf [DecidableEq α] (d : α) (t : Table α) : Prop :=
  t.Pairwise (fun x y => x.1 < y.1) ∧ ∀ e ∈ t, e.2 ≠ d

/-- A number into an ascending list without repetition. -/
def insertNat (n : Nat) : List Nat → List Nat
  | [] => [n]
  | k :: t => if n < k then n :: k :: t else if n = k then k :: t else k :: insertNat n t

/-- The lowest number of a list. -/
def lowest : List Nat → Option Nat
  | [] => none
  | n :: t => match lowest t with
    | none => some n
    | some m => some (min n m)

/-- The place of a number in a list, counted from 0. -/
def positionOf (n : Nat) : List Nat → Option Nat
  | [] => none
  | k :: t => if k = n then some 0 else (positionOf n t).map (· + 1)

/-- A value clamped to a range (00_scope, Clamping and saturation). -/
def clampNat (lo hi v : Nat) : Nat := max lo (min hi v)

/-- An integer clamped to a range. -/
def clampInt (lo hi v : Int) : Int := max lo (min hi v)

/-- A quantity per primary, mapped. -/
def Prim.map (f : α → β) (p : Prim α) : Prim β := ⟨f p.r, f p.g, f p.b⟩

/-- Two quantities per primary, combined. -/
def Prim.zipWith {γ : Type} (f : α → β → γ) (p : Prim α) (q : Prim β) : Prim γ :=
  ⟨f p.r q.r, f p.g q.g, f p.b q.b⟩

/-- Whether any primary passes a test. -/
def Prim.any (f : α → Bool) (p : Prim α) : Bool := f p.r || f p.g || f p.b

/-- The three values in the order R, G, B. -/
def Prim.toList (p : Prim α) : List α := [p.r, p.g, p.b]

end Sys2Proof.Machine
end

