-- ==== Sys2Proof/Machine/Flags.lean ====
section
/-! DEFINITION. Machine/Flags.lean: the Notification Unit's sets, lines and counters (11), and the flags and
lines that other blocks derive from their state. -/
namespace Sys2Proof.Machine

/-- The number of an event kind, its place in the masks (R190). -/
def Event.number : Event → Nat
  | .commitDone => 0
  | .holdExpired => 1
  | .loadDone => 2
  | .loadAborted => 3
  | .messageDiscarded => 4
  | .poolLow => 5
  | .refFallback => 6
  | .seatStale => 7
  | .identityClash => 8
  | .recordSuspect => 9
  | .ceiling => 10
  | .reportGap => 11
  | .reportOverflow => 12
  | .driftBatch => 13
  | .unrecordedArrival => 14

/-- The mask with one kind's bit set (R192). -/
def Event.mask (e : Event) : BitVec 15 := BitVec.twoPow 15 e.number

/-- One kind added to a pending set; a kind already pending stays pending, once (R190). -/
def EventSets.add (e : Event) (s : EventSets) : EventSets := { s with pending := s.pending ||| e.mask }

/-- Whether the pending and the enable set have a kind in common (R189). -/
def EventSets.meet (s : EventSets) : Bool := s.pending &&& s.enabled != 0

/-- A port's sets. -/
def Nu.sets (n : Nu) : Port → EventSets
  | .a => n.a
  | .b => n.b

/-- A port's sets replaced. -/
def Nu.setSets (n : Nu) (p : Port) (e : EventSets) : Nu :=
  match p with
  | .a => { n with a := e }
  | .b => { n with b := e }

/-- Whether a port is attached: Port A always, Port B while ATTACH_B is high (R178). -/
def Nu.attached (n : Nu) : Port → Bool
  | .a => true
  | .b => n.attachB

/-- An event kind added to one port's pending set; nothing is added to Port B while it is detached (R189). -/
def Nu.add (p : Port) (e : Event) (n : Nu) : Nu :=
  if n.attached p then n.setSets p ((n.sets p).add e) else n

/-- An event kind added to both ports' pending sets (R190). -/
def Nu.addBoth (e : Event) (n : Nu) : Nu := (n.add .a e).add .b e

/-- The level of a port's NOTIFY line: Port B's is low while it is detached (R189). -/
def Nu.notify (n : Nu) (p : Port) : Bool := n.attached p && (n.sets p).meet

/-- A counter raised, stopping at 65535 (R195). -/
def saturate (n k : Nat) : Nat := min 65535 (n + k)

/-- One counter raised by `k` (R195). -/
def Counters.bump (c : Counter) (k : Nat) (s : Counters) : Counters :=
  match c with
  | .sec => { s with sec := saturate s.sec k }
  | .ded => { s with ded := saturate s.ded k }
  | .discardedA => { s with discardedA := saturate s.discardedA k }
  | .discardedB => { s with discardedB := saturate s.discardedB k }
  | .reportsMalformed => { s with reportsMalformed := saturate s.reportsMalformed k }
  | .reportsDropped => { s with reportsDropped := saturate s.reportsDropped k }
  | .reportGaps => { s with reportGaps := saturate s.reportGaps k }
  | .clashes => { s with clashes := saturate s.clashes k }
  | .reclaims => { s with reclaims := saturate s.reclaims k }
  | .unrecordedArrivals => { s with unrecordedArrivals := saturate s.unrecordedArrivals k }
  | .hoursRegressed => { s with hoursRegressed := saturate s.hoursRegressed k }
  | .burstsUnseated => { s with burstsUnseated := saturate s.burstsUnseated k }
  | .overlengthBursts => { s with overlengthBursts := saturate s.overlengthBursts k }

/-- The thirteen values in the order of their numbers (R195, R196). -/
def Counters.values (s : Counters) : List Nat :=
  [s.sec, s.ded, s.discardedA, s.discardedB, s.reportsMalformed, s.reportsDropped, s.reportGaps, s.clashes,
   s.reclaims, s.unrecordedArrivals, s.hoursRegressed, s.burstsUnseated, s.overlengthBursts]

/-- A counter raised by `k` in the Notification Unit. -/
def Nu.count (c : Counter) (k : Nat) (n : Nu) : Nu := { n with counters := n.counters.bump c k }

/-- The store with its Notification Unit changed. -/
def Store.onNu (f : Nu → Nu) (st : Store) : Store := { st with nu := f st.nu }

/-- The state with its Notification Unit changed. -/
def State.onNu (f : Nu → Nu) (s : State) : State := { s with store := s.store.onNu f }

/-- What is kept for one port. -/
def State.port (s : State) : Port → PortState
  | .a => s.portA
  | .b => s.portB

/-- What is kept for one port, changed. -/
def State.onPort (p : Port) (f : PortState → PortState) (s : State) : State :=
  match p with
  | .a => { s with portA := f s.portA }
  | .b => { s with portB := f s.portB }

/-- The level of a port's READY line: high while its message queue has room, low while it holds 4 messages; READY_B
is low while Port B is detached (R173, R174). -/
def State.ready (s : State) (p : Port) : Bool := s.store.nu.attached p && decide ((s.port p).messages.length < 4)

/-- The level of a port's NOTIFY line (R189). -/
def State.notify (s : State) (p : Port) : Bool := s.store.nu.notify p

/-- TRL_HOLD: asserted while the depth of the intake queue is at or above REPORT_FENCE (R55). -/
def State.trlHold (s : State) : Bool := decide (s.params.reportFence ≤ s.trl.queue.length)

/-- The free count: the length of the Free Slot Queue (R12). -/
def State.freeCount (s : State) : Nat := s.freeQueue.length

/-- The POOL_LOW condition (R16). -/
def State.poolLow (s : State) : Bool := decide (s.freeCount < s.params.poolLowThreshold)

/-- The REF_FALLBACK condition (R141). -/
def Ftu.refFallback (f : Ftu) : Bool := decide (f.requested = .external ∧ f.current = .internal)

/-- The onset rule: a kind is added to both pending sets where its condition turns from false to true (R191). -/
def Nu.onset (e : Event) (before after : Bool) (n : Nu) : Nu := if !before && after then n.addBoth e else n

/-- POOL_LOW evaluated after a change, against the condition as it stood before it (R16). -/
def State.poolOnset (before : Bool) (s : State) : State := s.onNu (Nu.onset .poolLow before s.poolLow)

/-- REF_FALLBACK evaluated after a change, against the condition as it stood before it (R141). -/
def State.refOnset (before : Bool) (s : State) : State := s.onNu (Nu.onset .refFallback before s.ftu.refFallback)

end Sys2Proof.Machine
end

