-- ==== Sys2Proof/Machine/Operands.lean ====
section
/-! DEFINITION. Machine/Operands.lean: the bytes that cross the part's edges (R176, R188): the CRC-16, the
layouts of messages, answers, bank images, record images and reports, and the codes of enumerated items. -/
namespace Sys2Proof.Machine

/-! ### CRC-16 (R176) -/

/-- One shift of the CRC register toward the most significant end. -/
def crcShift (r : Half) : Half := if r.msb then (r <<< 1) ^^^ 0x1021#16 else r <<< 1

/-- The register after one byte. -/
def crcByte (r : Half) (b : Byte) : Half := crcShift^[8] (r ^^^ (b.zeroExtend 16 <<< 8))

/-- The CRC-16 over bytes in order (R176). -/
def crc16 (bytes : List Byte) : Half := bytes.foldl crcByte 0xFFFF#16

/-! ### Multi-byte fields, most significant byte first (R188) -/

/-- A number in `n` bytes, modulo 256^n. -/
def beBytes : Nat → Nat → List Byte
  | 0, _ => []
  | n + 1, v => BitVec.ofNat 8 (v / 256 ^ n) :: beBytes n v

/-- The unsigned number bytes carry. -/
def beNat (bytes : List Byte) : Nat := bytes.foldl (fun acc b => acc * 256 + b.toNat) 0

/-- An integer in `n` bytes, two's complement. -/
def beInt (n : Nat) (v : Int) : List Byte := beBytes n (v % (256 ^ n : Int)).toNat

/-- The signed number two bytes carry. -/
def beSigned (bytes : List Byte) : Int := (BitVec.ofNat 16 (beNat bytes)).toInt

/-- `n` bytes from an offset. -/
def field (bytes : List Byte) (offset n : Nat) : List Byte := (bytes.drop offset).take n

/-- The unsigned number at an offset. -/
def natAt (bytes : List Byte) (offset n : Nat) : Nat := beNat (field bytes offset n)

/-- The signed 16-bit number at an offset. -/
def intAt (bytes : List Byte) (offset : Nat) : Int := beSigned (field bytes offset 2)

/-- A 16-bit word in two bytes. -/
def halfBytes (v : Half) : List Byte := beBytes 2 v.toNat

/-- A number in one byte. -/
def byteOf (v : Nat) : List Byte := [BitVec.ofNat 8 v]

/-- A number in two bytes. -/
def u16 (v : Nat) : List Byte := beBytes 2 v

/-- A slot, seat or count in two bytes; none and ABSENT are FFFFh (R188). -/
def optU16 : Option Nat → List Byte
  | none => u16 0xFFFF
  | some v => u16 v

/-- A temperature in two bytes; INVALID is 8000h (R188). -/
def thetaBytes : Option Int → List Byte
  | none => u16 0x8000
  | some v => beInt 2 v

/-- A flag, marker or line level (R188). -/
def flagByte (b : Bool) : List Byte := byteOf (if b then 1 else 0)

/-! ### Codes of enumerated items (R188) -/

def RecordState.code : RecordState → Nat
  | .free => 0
  | .new => 1
  | .live => 2
  | .suspect => 3

def Condition.code : Condition → Nat
  | .closed => 0
  | .opened => 1
  | .frozen => 2
  | .scheduled => 3

def Hold.code : Hold → Nat
  | .none => 0
  | .portA => 1
  | .portB => 2
  | .load => 3

def Port.code : Port → Nat
  | .a => 0
  | .b => 1

def LoadState.code : LoadState → Nat
  | .idle => 0
  | .active => 1
  | .committing => 2
  | .done => 3
  | .aborted => 4

def Reason.code : Reason → Nat
  | .none => 0
  | .check => 1
  | .duplicate => 2
  | .held => 3
  | .zone => 4
  | .poolEmpty => 5
  | .byCommand => 6
  | .timeout => 7
  | .detached => 8
  | .wallReset => 9

def Source.code : Source → Nat
  | .external => 0
  | .internal => 1

def Origin.code : Origin → Nat
  | .reported => 0
  | .manual => 1

def Freshness.code : Freshness → Nat
  | .fresh => 0
  | .stale => 1
  | .unconfirmed => 2

def Location.code : Location → Nat
  | .identity => 0
  | .state => 1
  | .activeBank => 2
  | .pendingBank => 3
  | .drift => 4
  | .freeSlot => 5

def Reader.code : Reader → Nat
  | .cd => 0
  | .dt => 1
  | .cu => 2
  | .cx => 3
  | .bl => 4
  | .sc => 5
  | .pu => 6
  | .rt => 7

def Edge.code : Edge → Nat
  | .top => 0
  | .bottom => 1
  | .left => 2
  | .right => 3

/-- The monitor state and, in the byte after it, the count, 0 outside ACQUIRING. -/
def Monitor.bytes : Monitor → List Byte
  | .noReference => [0, 0]
  | .acquiring n => byteOf 1 ++ byteOf n
  | .locked => [2, 0]

/-- A seat kind, or what PLACE_SEAT or VACATE_SEAT displaced, with what follows it. -/
def SeatKind.bytes : SeatKind → List Byte
  | .vacant => [0]
  | .placed slot => byteOf 1 ++ u16 slot
  | .unrecorded identity batch => byteOf 2 ++ beBytes 6 identity ++ u16 batch

/-- The index of a bank. -/
def BankIx.index : BankIx → Nat
  | .bank0 => 0
  | .bank1 => 1

/-- The other bank of a record. -/
def BankIx.other : BankIx → BankIx
  | .bank0 => .bank1
  | .bank1 => .bank0

/-- Where a bank in use or a copy comes from (R9, R110). -/
inductive BankSource where
  | active (ix : BankIx)
  | batchEntry (entry : Nat)
  | unity
  deriving DecidableEq, Repr, Inhabited

/-- The source of a bank in two bytes. -/
def BankSource.bytes : BankSource → List Byte
  | .active ix => byteOf 0 ++ byteOf (BankIx.index ix)
  | .batchEntry n => byteOf 1 ++ byteOf n
  | .unity => [2, 0]

/-- The answer codes (R188). -/
inductive AnswerCode where
  | ok
  | clamped
  | badField
  | noRecord
  | exists_
  | poolEmpty
  | held
  | notHeld
  | frozen
  | busy
  | zone
  | check
  | placed
  | listFull
  | noLoad
  | notPermitted
  | unknownCommand
  deriving DecidableEq, Repr, Inhabited

def AnswerCode.code : AnswerCode → Nat
  | .ok => 0x00
  | .clamped => 0x01
  | .badField => 0x02
  | .noRecord => 0x03
  | .exists_ => 0x04
  | .poolEmpty => 0x05
  | .held => 0x06
  | .notHeld => 0x07
  | .frozen => 0x08
  | .busy => 0x09
  | .zone => 0x0A
  | .check => 0x0B
  | .placed => 0x0C
  | .listFull => 0x0D
  | .noLoad => 0x0E
  | .notPermitted => 0x0F
  | .unknownCommand => 0x10

/-- What a command answers: the answer code and the payload, before the tag is put to it (R177). -/
structure Reply where
  code : AnswerCode
  payload : List Byte
  deriving DecidableEq, Repr, Inhabited

/-- An OK answer with its items. -/
def Reply.ok (payload : List Byte) : Reply := ⟨.ok, payload⟩

/-- A refusal that carries nothing. -/
def Reply.bare (code : AnswerCode) : Reply := ⟨code, []⟩

/-- BAD_FIELD, naming the offset of the first byte of the field at fault (R188). -/
def Reply.badField (offset : Nat) : Reply := ⟨.badField, byteOf offset⟩

/-- The offset that names the payload length as the fault (R188). -/
def lengthFault : Nat := 0xFF

/-! ### Bank images (R7, R188) -/

/-- A trim entry in its four bytes. -/
def trimBytes (t : Trim) : List Byte := byteOf (Edge.code t.edge) ++ byteOf t.width ++ u16 t.factor

/-- The values of one group of a bank, in the order of WRITE_BANK (R111) and of the bank image. -/
def groupBytes (b : Bank) : Group → List Byte
  | .matrix => (Prim.toList b.matrix).flatMap fun row => (Prim.toList row).flatMap (beInt 2)
  | .gains => (Prim.toList b.gains).flatMap u16
  | .thermal => beInt 2 b.thetaRef ++ (Prim.toList b.thermal).flatMap (beInt 2)
  | .aging => (Prim.toList b.aging).flatMap u16
  | .trims => b.trims.flatMap trimBytes

/-- A bank's image (R188): 39 + 4n bytes. -/
def bankImage (b : Bank) : List Byte :=
  groupBytes b .matrix ++ groupBytes b .gains ++ groupBytes b .thermal ++ groupBytes b .aging ++
    byteOf b.trims.length ++ groupBytes b .trims

/-- The CRC-16 of a bank: over its image (R7). -/
def bankCrc (b : Bank) : Half := crc16 (bankImage b)

/-- The edge a code names; a code above 3 names none (R188). -/
def edgeOf : Nat → Option Edge
  | 0 => some .top
  | 1 => some .bottom
  | 2 => some .left
  | 3 => some .right
  | _ => none

/-- The trim entries bytes carry, four bytes each; reading stops at a byte that names no edge. -/
def trimsOf : List Byte → List Trim
  | e :: w :: f :: f' :: t =>
    match edgeOf e.toNat with
    | some edge => ⟨edge, w.toNat, beNat [f, f']⟩ :: trimsOf t
    | none => []
  | _ => []

/-- The offset of the first trim field at fault: an edge code above 3 or already used, a width outside 1..8, a
factor outside 128..256 (R7, R188). -/
def trimFault (seen : List Byte) (offset : Nat) : List Byte → Option Nat
  | e :: w :: f :: f' :: t =>
    if 3 < e.toNat ∨ e ∈ seen then some offset
    else if w.toNat < 1 ∨ 8 < w.toNat then some (offset + 1)
    else if beNat [f, f'] < 128 ∨ 256 < beNat [f, f'] then some (offset + 2)
    else trimFault (e :: seen) (offset + 4) t
  | _ => none

/-- A colour matrix from its 18 bytes. -/
def matrixOf (bytes : List Byte) : Prim (Prim Int) :=
  ⟨⟨intAt bytes 0, intAt bytes 2, intAt bytes 4⟩, ⟨intAt bytes 6, intAt bytes 8, intAt bytes 10⟩,
   ⟨intAt bytes 12, intAt bytes 14, intAt bytes 16⟩⟩

/-- Three unsigned values from an offset. -/
def natsAt (bytes : List Byte) (offset : Nat) : Prim Nat :=
  ⟨natAt bytes offset 2, natAt bytes (offset + 2) 2, natAt bytes (offset + 4) 2⟩

/-- Three signed values from an offset. -/
def intsAt (bytes : List Byte) (offset : Nat) : Prim Int :=
  ⟨intAt bytes offset, intAt bytes (offset + 2), intAt bytes (offset + 4)⟩

/-- The bank an image carries (R188). -/
def bankOf (image : List Byte) : Bank where
  matrix := matrixOf image
  gains := natsAt image 18
  thetaRef := intAt image 24
  thermal := intsAt image 26
  aging := natsAt image 32
  trims := trimsOf (image.drop 39)

/-- Whether a reference temperature lies outside −80..200 (R7). -/
def thetaOut (θ : Int) : Bool := decide (θ < -80 ∨ 200 < θ)

/-- The first field at fault in a bank image that stands at an offset of a payload, or none where the bank is valid
(R7, R188).  A length that disagrees with the trim count is a fault of the payload length.  The fields come in the order in which they
stand, and the length behind the trim count it disagrees with, so a θref out of range is named before it (log 17). -/
def bankFault (offset : Nat) (image : List Byte) : Option Nat :=
  if thetaOut (intAt image 24) then some (offset + 24)
  else if 4 < natAt image 38 1 then some (offset + 38)
  else if image.length ≠ 39 + 4 * natAt image 38 1 then some lengthFault
  else trimFault [] (offset + 39) (image.drop 39)

/-- The group a code of WRITE_BANK names (R188). -/
def groupOf : Nat → Option Group
  | 0 => some .matrix
  | 1 => some .gains
  | 2 => some .thermal
  | 3 => some .aging
  | 4 => some .trims
  | _ => none

/-- The code of a group of WRITE_BANK (R188). -/
def Group.code : Group → Nat
  | .matrix => 0
  | .gains => 1
  | .thermal => 2
  | .aging => 3
  | .trims => 4

/-- Whether a number of value bytes suits a group (R111). -/
def groupLengthOk (g : Group) (n : Nat) : Bool :=
  match g with
  | .matrix => n == 18
  | .gains => n == 6
  | .thermal => n == 8
  | .aging => n == 6
  | .trims => n % 4 == 0 && decide (n ≤ 16)

/-- The first value of a group at fault, its bytes standing at an offset of a payload (R111). -/
def groupFault (g : Group) (offset : Nat) (bytes : List Byte) : Option Nat :=
  if !groupLengthOk g bytes.length then some lengthFault
  else match g with
    | .thermal => if thetaOut (intAt bytes 0) then some offset else none
    | .trims => trimFault [] offset bytes
    | _ => none

/-- A bank with one group replaced by the values bytes carry (R111). -/
def Bank.withGroup (b : Bank) (g : Group) (bytes : List Byte) : Bank :=
  match g with
  | .matrix => { b with matrix := matrixOf bytes }
  | .gains => { b with gains := natsAt bytes 0 }
  | .thermal => { b with thetaRef := intAt bytes 0, thermal := intsAt bytes 2 }
  | .aging => { b with aging := natsAt bytes 0 }
  | .trims => { b with trims := trimsOf bytes }

/-- A bank with one group taken from another bank. -/
def Bank.copyGroup (b from_ : Bank) (g : Group) : Bank :=
  match g with
  | .matrix => { b with matrix := from_.matrix }
  | .gains => { b with gains := from_.gains }
  | .thermal => { b with thetaRef := from_.thetaRef, thermal := from_.thermal }
  | .aging => { b with aging := from_.aging }
  | .trims => { b with trims := from_.trims.take 4 }

/-- The group a field of a bank belongs to (R7, R111). -/
def BankField.group : BankField → Group
  | .matrix _ _ => .matrix
  | .gain _ => .gains
  | .thetaRef => .thermal
  | .thermal _ => .thermal
  | .aging _ => .aging
  | .trimCount => .trims
  | .trimEdge _ => .trims
  | .trimWidth _ => .trims
  | .trimFactor _ => .trims

/-- Three quantities, those that pass a test taken from another three. -/
def Prim.mix {α : Type} (p : Fin 3 → Bool) (a from_ : Prim α) : Prim α :=
  ⟨if p 0 then from_.r else a.r, if p 1 then from_.g else a.g, if p 2 then from_.b else a.b⟩

/-- A trim entry of zeros: edge code 0, width 0, factor 0. -/
def Trim.zero : Trim := ⟨.top, 0, 0⟩

/-- Trim entry `n` of a bank, the fields that pass a test taken from another bank's entry `n`; an entry that is not there reads as zeros. -/
def Trim.mixAt (p : BankField → Bool) (a from_ : List Trim) (n : Nat) : Trim where
  edge := if p (.trimEdge n) then (from_.getD n Trim.zero).edge else (a.getD n Trim.zero).edge
  width := if p (.trimWidth n) then (from_.getD n Trim.zero).width else (a.getD n Trim.zero).width
  factor := if p (.trimFactor n) then (from_.getD n Trim.zero).factor else (a.getD n Trim.zero).factor

/-- A bank whose fields that pass a test are taken from another bank, every other field as it was. -/
def Bank.mix (p : BankField → Bool) (b from_ : Bank) : Bank where
  matrix := ⟨Prim.mix (fun c => p (.matrix 0 c)) b.matrix.r from_.matrix.r,
    Prim.mix (fun c => p (.matrix 1 c)) b.matrix.g from_.matrix.g,
    Prim.mix (fun c => p (.matrix 2 c)) b.matrix.b from_.matrix.b⟩
  gains := Prim.mix (fun c => p (.gain c)) b.gains from_.gains
  thetaRef := if p .thetaRef then from_.thetaRef else b.thetaRef
  thermal := Prim.mix (fun c => p (.thermal c)) b.thermal from_.thermal
  aging := Prim.mix (fun c => p (.aging c)) b.aging from_.aging
  trims := (List.range (if p .trimCount then min 4 from_.trims.length else b.trims.length)).map
    (Trim.mixAt p b.trims from_.trims)

/-! ### Messages and answers (R174, R175, R188) -/

/-- The message a transaction's bytes carry, where they pass framing checks 1 to 3 of R174. -/
def messageOf (bytes : List Byte) : Option Message :=
  match bytes with
  | type :: len :: code :: tag :: rest =>
    if type = 0x01 ∧ len.toNat ≤ 250 ∧ bytes.length = 6 + len.toNat ∧
        crc16 ((bytes.drop 1).take (3 + len.toNat)) = BitVec.ofNat 16 (natAt bytes (4 + len.toNat) 2)
    then some ⟨code, tag, rest.take len.toNat⟩
    else none
  | _ => none

/-- An answer as it is returned after the type byte (R188). -/
def Answer.bytes (a : Answer) : List Byte :=
  let body := [a.tag, a.code] ++ byteOf a.payload.length ++ a.payload
  body ++ halfBytes (crc16 body)

/-- The empty marker (R175). -/
def Answer.emptyMarker : Answer := ⟨0x00, 0xFF, []⟩

/-- A reply with the tag of its command (R177). -/
def Reply.toAnswer (r : Reply) (tag : Byte) : Answer := ⟨tag, BitVec.ofNat 8 r.code.code, r.payload⟩

/-- The bytes of a message write transaction that carries a message (R188). -/
def Message.bytes (m : Message) : List Byte :=
  let body := byteOf m.payload.length ++ [m.code, m.tag] ++ m.payload
  0x01#8 :: (body ++ halfBytes (crc16 body))

/-- A record image, as LOAD_RECORD carries it (R188). -/
def recordImage (identity batch : Nat) (bank : Bank) : List Byte :=
  let body := beBytes 6 identity ++ u16 batch ++ bankImage bank
  body ++ halfBytes (crc16 body)

/-- Whether a trim's width and factor lie in their ranges (R7). -/
def Trim.valid (t : Trim) : Bool := decide (1 ≤ t.width ∧ t.width ≤ 8 ∧ 128 ≤ t.factor ∧ t.factor ≤ 256)

/-- Whether three integers lie in the range of a signed 16-bit field. -/
def Prim.signed16 (p : Prim Int) : Bool :=
  !Prim.any (fun v => decide (v < -32768 ∨ 32767 < v)) p

/-- Whether three numbers lie in the range of an unsigned 16-bit field. -/
def Prim.unsigned16 (p : Prim Nat) : Bool := !Prim.any (fun v => decide (65535 < v)) p

/-- A valid bank: every field in its range, at most four trims, at most one for each edge (R7). -/
def Bank.valid (b : Bank) : Bool :=
  Prim.signed16 b.matrix.r && Prim.signed16 b.matrix.g && Prim.signed16 b.matrix.b && Prim.unsigned16 b.gains &&
    !thetaOut b.thetaRef && Prim.signed16 b.thermal && Prim.unsigned16 b.aging &&
    decide (b.trims.length ≤ 4) && b.trims.all Trim.valid && decide (b.trims.map Trim.edge).Nodup

/-! ### Reports (R49 to R52, R188) -/

/-- One sample of TRL_DATA (R51): the line after it, and the frame that ends with it, if one does: its whole bytes, and whether every
stop bit read 1.  A frame begins at a start bit with 16 idle periods before it; it ends at the sixteenth idle period behind a stop bit,
which are then the 16 that the next frame needs, or at a stop bit that reads 0, behind which none is counted. -/
def Line.sample (bit : Bool) : Line → Line × Option (List Byte × Bool)
  | .between idle =>
    if bit then (.between (min 16 (idle + 1)), none)
    else if 16 ≤ idle then (.within [] [], none)
    else (.between 0, none)
  | .behind bytes idle =>
    if bit then
      if 16 ≤ idle + 1 then (.between 16, some (bytes, true)) else (.behind bytes (idle + 1), none)
    else (.within bytes [], none)
  | .within bytes bits =>
    if bits.length < 8 then (.within bytes (bits ++ [bit]), none)
    else if bit then (.behind (bytes ++ [BitVec.ofNat 8 (bits.foldl (fun acc b => 2 * acc + b.toNat) 0)]) 0, none)
    else (.between 0, some (bytes, false))

/-- A run of samples: the frames that end in it, in order, and the line after it (R51). -/
def Line.run : List Bool → Line → List (List Byte × Bool) × Line
  | [], line => ([], line)
  | bit :: t, line =>
    match line.sample bit with
    | (line, none) => Line.run t line
    | (line, some frame) =>
      let r := Line.run t line
      (frame :: r.1, r.2)

/-- The samples of one byte: a start bit of 0, eight data bits most significant first, a stop bit of 1 (R51). -/
def byteSamples (b : Byte) : List Bool :=
  [false, b.getMsbD 0, b.getMsbD 1, b.getMsbD 2, b.getMsbD 3, b.getMsbD 4, b.getMsbD 5, b.getMsbD 6, b.getMsbD 7, true]

/-- The samples of one frame, bytes one after another, with the sixteen idle periods that end it (R51). -/
def frameSamples (bytes : List Byte) : List Bool := bytes.flatMap byteSamples ++ List.replicate 16 true

/-- The length of a frame of each kind, or none where the kind is none of the three (R52, R188). -/
def frameLength (kind : Nat) : Option Nat :=
  match kind with
  | 1 => some 17
  | 2 => some 20
  | 3 => some 6
  | _ => none

/-- The report of a frame that has the length its kind requires, hours and temperature clamped (R50), no gap mark. -/
def reportFields (f : List Byte) : Report :=
  let kind := natAt f 2 1
  { distPort := natAt f 0 1
    chain := natAt f 3 1
    sequence := BitVec.ofNat 8 (natAt f 1 1)
    kind := if kind = 1 then .announce
      else if kind = 2 then .status (if natAt f 15 1 = 0 then none else some (clampInt (-80) 200 (intAt f 16)))
      else .lost
    identity := if kind = 3 then 0 else natAt f 4 6
    batch := if kind = 3 then 0 else natAt f 10 2
    hours := if kind = 3 then 0 else min 262143 (natAt f 12 3)
    check := BitVec.ofNat 16 (natAt f (f.length - 2) 2)
    gap := false }

/-- The bytes of a report frame before its check (R188): what each kind carries.  `raw` is the temperature field of a STATUS whose marker
is absent. -/
def Report.body (r : Report) (raw : Int) : List Byte :=
  let head := fun (kind : Nat) => byteOf r.distPort ++ [r.sequence] ++ byteOf kind ++ byteOf r.chain
  let tile := beBytes 6 r.identity ++ u16 r.batch ++ beBytes 3 r.hours
  match r.kind with
  | .announce => head 1 ++ tile
  | .status (some t) => head 2 ++ tile ++ byteOf 1 ++ beInt 2 t
  | .status none => head 2 ++ tile ++ byteOf 0 ++ beInt 2 raw
  | .lost => head 3

/-- The bytes of a report frame (R188): the body, then its check. -/
def Report.bytes (r : Report) (raw : Int) : List Byte := r.body raw ++ halfBytes (crc16 (r.body raw))

/-- What a good report can carry (R49, R52): a LOST carries no identity, batch or hours, which are then 0. -/
def Report.carried (r : Report) : Bool :=
  decide (r.distPort ≤ 15) && decide (r.chain ≤ 95) && match r.kind with
    | .lost => decide (r.identity = 0) && decide (r.batch = 0) && decide (r.hours = 0)
    | .announce => decide (1 ≤ r.identity ∧ r.identity < 2 ^ 48) && decide (r.batch < 65536) && decide (r.hours < 2 ^ 24)
    | .status t => decide (1 ≤ r.identity ∧ r.identity < 2 ^ 48) && decide (r.batch < 65536) && decide (r.hours < 2 ^ 24) &&
        t.elim true fun v => decide (-32768 ≤ v ∧ v ≤ 32767)

/-- The good report a frame carries, or none where it fails one of the five intake checks (R52). -/
def reportOf (frame : List Byte × Bool) : Option Report :=
  let f := frame.1
  let r := reportFields f
  if frame.2 = true ∧ frameLength (natAt f 2 1) = some f.length
      ∧ crc16 (f.take (f.length - 2)) = BitVec.ofNat 16 (natAt f (f.length - 2) 2)
      ∧ r.distPort ≤ 15 ∧ r.chain ≤ 95 ∧ (r.kind = .lost ∨ r.identity ≠ 0)
  then some r else none

end Sys2Proof.Machine
end

