-- ==== Sys2Proof/Machine/Ops.lean ====
section
/-! DEFINITION. Machine/Ops.lean: the named operations on the record store, its directory and the tables
around it that the blocks share. -/
namespace Sys2Proof.Machine

/-! ### The record store -/

/-- The record in a slot; an unlisted slot is FREE (R1). -/
def Store.get (st : Store) (slot : Nat) : Record := Table.get Record.blank st.records slot

/-- The record in a slot replaced. -/
def Store.put (slot : Nat) (r : Record) (st : Store) : Store :=
  { st with records := Table.set Record.blank slot r st.records }

/-- The record in a slot changed. -/
def Store.modify (slot : Nat) (f : Record → Record) (st : Store) : Store := st.put slot (f (st.get slot))

/-- Whether a record is in use: NEW, LIVE or SUSPECT (R1). -/
def Record.inUse (r : Record) : Bool := r.state != .free

/-- The slots of the records in use, ascending. -/
def Store.inUseSlots (st : Store) : List Nat := (Table.keys st.records).filter fun n => (st.get n).inUse

/-- A piece of work done on every record in use.  DESIGN CHOICE: the records are taken in ascending order of slot, at a boundary (log 7) and
in one command (log 26); the manual gives no order, and which finding is the last where several records hold damaged words rests on it. -/
def Store.eachInUse (f : Nat → Store → Store) (st : Store) : Store :=
  st.inUseSlots.foldl (fun acc slot => f slot acc) st

/-- A counter raised by `k`. -/
def Store.count (c : Counter) (k : Nat) (st : Store) : Store := st.onNu (Nu.count c k)

/-- An event kind added to both ports. -/
def Store.addBoth (e : Event) (st : Store) : Store := st.onNu (Nu.addBoth e)

/-! ### Banks of a record (R1, R105) -/

/-- One of a record's two banks. -/
def Record.bankAt (r : Record) : BankIx → Bank
  | .bank0 => r.bank0
  | .bank1 => r.bank1

/-- One of a record's two banks written. -/
def Record.setBank (ix : BankIx) (b : Bank) (r : Record) : Record :=
  match ix with
  | .bank0 => { r with bank0 := b }
  | .bank1 => { r with bank1 := b }

/-- The bank whose contents are in use for correction where the record is LIVE. -/
def Record.activeBank (r : Record) : Bank := r.bankAt r.active

/-- The index of the pending bank: the one that is not active (R105). -/
def Record.pendingIx (r : Record) : BankIx := BankIx.other r.active

/-- The pending bank (R105). -/
def Record.pendingBank (r : Record) : Bank := r.bankAt r.pendingIx

/-- The hold of a command port (R104). -/
def Port.hold : Port → Hold
  | .a => .portA
  | .b => .portB

/-- Whether a hold is a command port's. -/
def Hold.isPort : Hold → Bool
  | .portA => true
  | .portB => true
  | _ => false

/-- Whether a hold timer runs: OPEN or FROZEN, held by a command port (R106). -/
def Record.timerRuns (r : Record) : Bool :=
  (r.condition == .opened || r.condition == .frozen) && r.hold.isPort

/-! ### What the readers of the store consult beside it -/

/-- The tables and parameters that the Record Table and the Drift Tracker consult while they work on the store. -/
structure Ctx where
  seats : Table Seat
  index : Table (Option IndexEntry)
  batches : Table (Option BatchEntry)
  limit : Nat
  fallbackGain : Nat
  frame : FrameCount
  deriving DecidableEq, Repr

/-- The context a state gives. -/
def State.ctx (s : State) : Ctx where
  seats := s.seats
  index := s.index
  batches := s.batches
  limit := s.params.headroomLimit
  fallbackGain := s.params.fallbackGain
  frame := s.ftu.frameCount

/-- Work on the store within a state. -/
def State.onStore (f : Ctx → Store → Store) (s : State) : State := { s with store := f s.ctx s.store }

/-- The record in a slot of a state. -/
def State.record (s : State) (slot : Nat) : Record := s.store.get slot

/-- The record in a slot of a state changed, without a read of its words. -/
def State.modify (slot : Nat) (f : Record → Record) (s : State) : State :=
  { s with store := s.store.modify slot f }

/-- A counter raised by 1. -/
def State.count (c : Counter) (s : State) : State := s.onNu (Nu.count c 1)

/-- An event kind added to both ports. -/
def State.addBoth (e : Event) (s : State) : State := s.onNu (Nu.addBoth e)

/-- An event kind added to one port. -/
def State.addEvent (p : Port) (e : Event) (s : State) : State := s.onNu (Nu.add p e)

/-- The entry of the Seat Table for a seat (R27). -/
def seatEntry (seats : Table Seat) (n : Nat) : Seat := Table.get Seat.vacant seats n

/-- The entry of the Seat Table for a seat of a state. -/
def State.seat (s : State) (n : Nat) : Seat := seatEntry s.seats n

/-- An entry of the Seat Table written. -/
def State.setSeat (n : Nat) (e : Seat) (s : State) : State := { s with seats := Table.set Seat.vacant n e s.seats }

/-- The seat whose entry is PLACED with a slot, or none (R152). -/
def seatOfSlot (seats : Table Seat) (slot : Nat) : Option Nat :=
  Table.findKey (fun e => decide (e.kind = .placed slot)) seats

/-- The Identity Index entry of an identity (R10). -/
def State.lookup (s : State) (identity : Nat) : Option IndexEntry := Table.get none s.index identity

/-- The identity and the batch that the Identity Index holds for a slot (R10, R148). -/
def identityOfSlot (index : Table (Option IndexEntry)) (slot : Nat) : Option (Nat × Nat) :=
  (index.find? fun e => e.2.elim false fun x => decide (x.slot = slot)).map fun e =>
    (e.1, e.2.elim 0 IndexEntry.batch)

/-- The number and the content of the Batch Default Table entry for a batch code (R17). -/
def batchEntryOf (batches : Table (Option BatchEntry)) (batch : Nat) : Option (Nat × BatchEntry) :=
  match batches.find? fun e => e.2.elim false fun x => decide (x.batch = batch) with
  | some (n, some e) => some (n, e)
  | _ => none

/-- The unity bank: the identity matrix, base gains equal to FALLBACK_GAIN, slopes 0, θref 50, no trims (R8). -/
def unityBank (fallbackGain : Nat) : Bank where
  matrix := ⟨⟨16384, 0, 0⟩, ⟨0, 16384, 0⟩, ⟨0, 0, 16384⟩⟩
  gains := ⟨fallbackGain, fallbackGain, fallbackGain⟩
  thetaRef := 50
  thermal := ⟨0, 0, 0⟩
  aging := ⟨0, 0, 0⟩
  trims := []

/-- The bank that serves a batch where no active bank does: its entry's, else the unity bank, with its source (R9). -/
def batchBank (batches : Table (Option BatchEntry)) (fallbackGain batch : Nat) : BankSource × Bank :=
  match batchEntryOf batches batch with
  | some (n, e) => (.batchEntry n, e.bank)
  | none => (.unity, unityBank fallbackGain)

/-- The bank a record that is not LIVE uses (R9). -/
def Ctx.fallbackBank (cx : Ctx) (r : Record) : Bank := (batchBank cx.batches cx.fallbackGain r.batch).2

/-- The bank in use of a record, with its source (R9). -/
def Ctx.bankInUse (cx : Ctx) (r : Record) : BankSource × Bank :=
  if r.state = .live then (.active r.active, r.activeBank) else batchBank cx.batches cx.fallbackGain r.batch

end Sys2Proof.Machine
end

