-- ==== Sys2Proof/Machine/Drift.lean ====
section
/-! DEFINITION. Machine/Drift.lean: the arithmetic of the Drift Tracker (05), and the writing of targets and
applied gains into a record whose words have been read. -/
namespace Sys2Proof.Machine

/-- Δ: the filtered temperature against the reference, within ±160, and 0 while it is INVALID (R89). -/
def delta (θ : Option Int) (θref : Int) : Int := θ.elim 0 fun t => clampInt (-160) 160 (t - θref)

/-- AT, the thermal factor in units of 2^−20 (R89). -/
def thermalFactor (k Δ : Int) : Nat := (clampInt (2 ^ 19) (2 ^ 21 - 1) (2 ^ 20 + k * Δ)).toNat

/-- AH, the aging factor in units of 2^−20 (R89). -/
def agingFactor (a hours : Nat) : Nat := min (2 ^ 21 - 1) (2 ^ 20 + a * hours / 16)

/-- The unlimited target: the product rounded half up to units of 1/32768 (R89). -/
def unlimitedTarget (gain : Nat) (k : Int) (a : Nat) (Δ : Int) (hours : Nat) : Nat :=
  (gain * thermalFactor k Δ * agingFactor a hours + 2 ^ 39) / 2 ^ 40

/-- The three unlimited targets of a bank at a temperature and an age (R89). -/
def unlimitedTargets (b : Bank) (θ : Option Int) (hours : Nat) : Prim Nat :=
  let Δ := delta θ b.thetaRef
  ⟨unlimitedTarget b.gains.r b.thermal.r b.aging.r Δ hours,
   unlimitedTarget b.gains.g b.thermal.g b.aging.g Δ hours,
   unlimitedTarget b.gains.b b.thermal.b b.aging.b Δ hours⟩

/-- The targets: each unlimited target limited to L (R89). -/
def targetsOf (limit : Nat) (b : Bank) (θ : Option Int) (hours : Nat) : Prim Nat :=
  Prim.map (min limit) (unlimitedTargets b θ hours)

/-- Whether a recompute limits at least one primary (R90). -/
def isLimited (limit : Nat) (b : Bank) (θ : Option Int) (hours : Nat) : Bool :=
  Prim.any (fun t => decide (limit < t)) (unlimitedTargets b θ hours)

/-- The temperature filter: θ toward a reading by a quarter of the distance, at least one half-degree (R86). -/
def filterTheta (θ : Option Int) (reading : Int) : Int :=
  match θ with
  | none => reading
  | some t =>
    let diff := reading - t
    let step := Int.tdiv diff 4
    t + (if diff = 0 then 0 else if step = 0 then (if 0 < diff then 1 else -1) else step)

/-- One applied gain moved toward its target by at most the step, without passing it (R92). -/
def slewGain (step applied target : Nat) : Nat :=
  if applied + step < target then applied + step
  else if target + step < applied then applied - step
  else target

/-- The applied gains of a record moved toward its targets (R92). -/
def Record.slewed (step : Nat) (r : Record) : Record :=
  { r with applied := Prim.zipWith (slewGain step) r.applied r.target }

/-- The applied gains set equal to the targets (R93). -/
def Record.settled (r : Record) : Record := { r with applied := r.target }

/-- What follows a recompute for the applied gains: they slew, or they are set equal to the targets (R91). -/
inductive After where
  | slew
  | set
  deriving DecidableEq, Repr

/-- The applied gains of a record after a recompute. -/
def After.apply : After → Record → Record
  | .slew, r => r
  | .set, r => r.settled

/-- A recompute from a bank that has been read: the three targets, then the ceiling flag, with CEILING where the flag moves
from clear to set; then what the event makes of the applied gains (R89, R90, R93). -/
def Dt.retarget (cx : Ctx) (after : After) (slot : Nat) (bank : Bank) (st : Store) : Store :=
  let r := st.get slot
  let limited := isLimited cx.limit bank r.theta r.hours
  let st' := st.put slot (after.apply { r with target := targetsOf cx.limit bank r.theta r.hours, ceiling := limited })
  if limited && !r.ceiling then st'.addBoth .ceiling else st'

/-- The number of boundaries an applied gain needs to reach its target (R102). -/
def boundariesToTarget (step applied target : Nat) : Nat :=
  let distance := (applied - target) + (target - applied)
  (distance + step - 1) / step

end Sys2Proof.Machine
end

