-- ==== Sys2Proof/Machine/Integrity.lean ====
section
/-! DEFINITION. Machine/Integrity.lean: the word protection of the record store (08), the condemnation of a record, and
the recomputes that read the store through it (R100).  Each definition here is one read of one slot by one
reader, with everything the read brings about (R148). -/
namespace Sys2Proof.Machine

/-! ### Damage -/

/-- Whether two or more bits of a word are flipped (R148). -/
def Damage.uncorrectable (d : Damage) : Bool := decide (2 ≤ d.bits.length)

/-- The damaged words of a slot among those a reader reads. -/
def Store.found (slot : Nat) (sel : ArrayWord → Bool) (st : Store) : List Damage :=
  st.damage.filter fun d => decide (d.slot = slot) && sel d.word

/-- The damage of a slot's words removed: they have been written whole, or rebuilt (R148). -/
def Store.mend (slot : Nat) (sel : ArrayWord → Bool) (st : Store) : Store :=
  { st with damage := st.damage.filter fun d => !(decide (d.slot = slot) && sel d.word) }

/-- One stored bit flipped: a bit flipped twice is as it was. -/
def Store.flip (u : Upset) (st : Store) : Store :=
  match st.damage.find? fun d => decide (d.slot = u.slot ∧ d.word = u.word) with
  | none => { st with damage := st.damage ++ [⟨u.slot, u.word, [u.bit]⟩] }
  | some d =>
    let bits := if u.bit ∈ d.bits then d.bits.filter (· ≠ u.bit) else d.bits ++ [u.bit]
    let rest := st.damage.filter fun d => !decide (d.slot = u.slot ∧ d.word = u.word)
    { st with damage := if bits = [] then rest else rest ++ [⟨u.slot, u.word, bits⟩] }

/-! ### The words readers read -/

def isStateWord (w : ArrayWord) : Bool := w == .state

def isIdentityWord (w : ArrayWord) : Bool := w == .identity

def isDriftWord : ArrayWord → Bool
  | .drift _ _ => true
  | _ => false

def isReadingWord : ArrayWord → Bool
  | .drift .reading _ => true
  | _ => false

def isAppliedWord : ArrayWord → Bool
  | .drift .applied _ => true
  | _ => false

def isBankWord (ix : BankIx) : ArrayWord → Bool
  | .bank ix' _ _ => ix == ix'
  | _ => false

def isGroupWord (ix : BankIx) (g : Group) : ArrayWord → Bool
  | .bank ix' g' _ => ix == ix' && g == g'
  | _ => false

/-- The words of a bank that the Drift Tracker reads: gains, θref and slopes (R84, R100). -/
def isDriftBankWord (ix : BankIx) (w : ArrayWord) : Bool :=
  isGroupWord ix .gains w || isGroupWord ix .thermal w || isGroupWord ix .aging w

/-- The words of a bank that the snapshot latch reads: matrix and trims (R71). -/
def isLatchBankWord (ix : BankIx) (w : ArrayWord) : Bool := isGroupWord ix .matrix w || isGroupWord ix .trims w

/-! ### Findings -/

/-- The single-bit errors of a read corrected, written back and counted in SEC (R149). -/
def Store.correct (slot : Nat) (sel : ArrayWord → Bool) (st : Store) : Store :=
  let n := ((st.found slot sel).filter fun d => !d.uncorrectable).length
  if n = 0 then st
  else { st with damage := st.damage.filter fun d => !(decide (d.slot = slot) && sel d.word && !d.uncorrectable) }
    |>.count .sec n

/-- The words of a slot that a read finds uncorrectable (R150). -/
def Store.doubles (slot : Nat) (sel : ArrayWord → Bool) (st : Store) : List Damage :=
  (st.found slot sel).filter Damage.uncorrectable

/-- Words found uncorrectable, counted in DED, and the last finding set (R150, R158). -/
def Store.foundDouble (cx : Ctx) (rd : Reader) (slot : Nat) (loc : Location) (n : Nat) (st : Store) : Store :=
  { st with finding := some ⟨cx.frame, slot, loc, rd⟩ } |>.count .ded n

/-! ### Rebuilds (R152) -/

/-- The state word rewritten whole: SUSPECT, the seat as the Seat Table has it, last seen the frame count. -/
def Rt.rebuildState (cx : Ctx) (slot : Nat) (st : Store) : Store :=
  (st.modify slot fun r => { r with state := .suspect, seat := seatOfSlot cx.seats slot, lastSeen := cx.frame }).mend
    slot isStateWord

/-- The identity word rewritten whole from the record's Identity Index entry. -/
def Rt.rebuildIdentity (cx : Ctx) (slot : Nat) (st : Store) : Store :=
  (match identityOfSlot cx.index slot with
   | some (x, batch) => st.modify slot fun r => { r with identity := x, batch := batch }
   | none => st).mend slot isIdentityWord

/-! ### Reinitialisation and recompute of a record whose bank in use lies outside the array -/

/-- The drift fields cleared to the known start, every drift word written whole (R98, steps 1 and 2; R154). -/
def Dt.clearDrift (slot : Nat) (st : Store) : Store :=
  (st.modify slot fun r => { r with theta := none, hours := 0, ceiling := false, regressed := false }).mend
    slot isDriftWord

/-- The recompute of a NEW or SUSPECT record: the drift words are read, and an uncorrectable one reinitialises them in
place of the recompute (R100). -/
def Dt.recomputeFallback (cx : Ctx) (after : After) (slot : Nat) (st : Store) : Store :=
  let st := st.correct slot isDriftWord
  let n := (st.doubles slot isDriftWord).length
  if n = 0 then Dt.retarget cx after slot (cx.fallbackBank (st.get slot)) st
  else
    let st := Dt.clearDrift slot (st.foundDouble cx .dt slot .drift n)
    Dt.retarget cx .set slot (cx.fallbackBank (st.get slot)) st

/-! ### Condemnation (R151) -/

/-- SUSPECT written into the state word.  The word is read first, and an error it holds has its own consequence (R148):
found uncorrectable it is rebuilt, which makes the record SUSPECT all the same. -/
def Rt.writeSuspect (cx : Ctx) (slot : Nat) (st : Store) : Store :=
  let st := st.correct slot isStateWord
  let n := (st.doubles slot isStateWord).length
  if n = 0 then st.modify slot fun r => { r with state := .suspect }
  else Rt.rebuildState cx slot (st.foundDouble cx .rt slot .state n)

/-- A record condemned (R151).  `stateWord` and `identityWord` say which words the read found damaged beside the active
bank; `recompute` says whether a LIVE record's targets are recomputed here, or by the reinitialisation that the same
read calls for; `after` is what that recompute makes of the applied gains (R100). -/
def Rt.condemn (cx : Ctx) (after : After) (stateWord identityWord recompute : Bool) (slot : Nat) (st : Store) : Store :=
  let wasLive := (st.get slot).state == .live
  let st := if stateWord then Rt.rebuildState cx slot st else Rt.writeSuspect cx slot st
  let st := if identityWord then Rt.rebuildIdentity cx slot st else st
  let st := st.addBoth .recordSuspect
  if wasLive && recompute then Dt.recomputeFallback cx after slot st else st

/-! ### Recompute in general (R89, R91, R100) -/

/-- The bank in use read and the targets written from it.  An uncorrectable word in a LIVE record's active bank condemns the
record, and the recompute is completed from its new bank in use (R100). -/
def Dt.recomputeFromBank (cx : Ctx) (after : After) (slot : Nat) (st : Store) : Store :=
  let r := st.get slot
  if r.state = .live then
    let st := st.correct slot (isDriftBankWord r.active)
    let n := (st.doubles slot (isDriftBankWord r.active)).length
    if n = 0 then Dt.retarget cx after slot r.activeBank st
    else Rt.condemn cx after false false true slot (st.foundDouble cx .dt slot .activeBank n)
  else Dt.retarget cx after slot (cx.fallbackBank r) st

/-- A reinitialisation of the drift words (R98): the known start, a recompute from the bank in use, the applied gains set
equal to the targets. -/
def Dt.reinitialise (cx : Ctx) (slot : Nat) (st : Store) : Store :=
  Dt.recomputeFromBank cx .set slot (Dt.clearDrift slot st)

/-- A recompute of one record: the drift words are read, and an uncorrectable one reinitialises them in its place (R100).  DESIGN CHOICE: the
drift words and a LIVE record's bank words are two reads, the drift words first, and not one in the order of R150; so where both hold an
uncorrectable word the last finding names ACTIVE_BANK (log 27). -/
def Dt.recompute (cx : Ctx) (after : After) (slot : Nat) (st : Store) : Store :=
  let st := st.correct slot isDriftWord
  let n := (st.doubles slot isDriftWord).length
  if n = 0 then Dt.recomputeFromBank cx after slot st
  else Dt.reinitialise cx slot (st.foundDouble cx .dt slot .drift n)

/-! ### A read of words, with the consequences of what it finds (R149, R150) -/

/-- Whether a field of a bank lies in one of the words named (R148; log 15 for which word of its group that is). -/
def liesIn (words : List Damage) (f : BankField) : Bool :=
  words.any fun d => match d.word with
    | .bank _ g index => g == f.group && index == Config.bankWord f
    | _ => false

/-- The pending bank's uncorrectable words: a claimed bank is marked damaged and its words are left; an unclaimed bank's words
are rewritten as zero, so that the fields in them read 0 and every other word stays (R148, R153). -/
def Rt.pendingFound (slot : Nat) (words : List Damage) (st : Store) : Store :=
  let r := st.get slot
  if r.hold = .none then
    (st.put slot (r.setBank r.pendingIx (r.pendingBank.mix (liesIn words) Bank.cleared))).mend slot fun w =>
      words.any fun d => d.word == w
  else st.put slot { r with pendingDamaged := true }

/-- The consequences of the uncorrectable words of an in-use slot, in the order of the table of R150.  The words and their classes
are taken as the read found them, all of them counted and the last of them named before the first consequence; a word that a
consequence's own read or write finds uncorrectable is a finding of its own, and stands last (log 12). -/
def Rt.consequences (cx : Ctx) (rd : Reader) (slot : Nat) (words : List Damage) (st : Store) : Store :=
  let r := st.get slot
  let has := fun (sel : ArrayWord → Bool) => words.any fun d => sel d.word
  let identity := has isIdentityWord
  let stateW := has isStateWord
  let active := has (isBankWord r.active)
  let pending := words.filter fun d => isBankWord r.pendingIx d.word
  let drift := has isDriftWord
  let loc : Location := if drift then .drift else if pending ≠ [] then .pendingBank else if active then .activeBank
    else if stateW then .state else .identity
  let st := st.foundDouble cx rd slot loc words.length
  let st := if identity || stateW || active then Rt.condemn cx .slew stateW identity (!drift) slot st else st
  let st := if pending ≠ [] then Rt.pendingFound slot pending st else st
  if drift then Dt.reinitialise cx slot st else st

/-- One reader's read of words of one slot through the word protection: single-bit errors are corrected, uncorrectable ones
have the consequence of their location class (R148 to R154). -/
def Rt.read (cx : Ctx) (rd : Reader) (slot : Nat) (sel : ArrayWord → Bool) (st : Store) : Store :=
  if (st.found slot sel).isEmpty then st
  else
    let st := st.correct slot sel
    let words := st.doubles slot sel
    if words = [] then st
    else if (st.get slot).inUse then Rt.consequences cx rd slot words st
    else (st.foundDouble cx rd slot .freeSlot words.length).mend slot sel

/-- A read within a state. -/
def State.read (rd : Reader) (slot : Nat) (sel : ArrayWord → Bool) (s : State) : State :=
  s.onStore fun cx st => Rt.read cx rd slot sel st

/-- A write of some fields of the state word: the word is read, then the fields are replaced (R148). -/
def State.writeStateWord (rd : Reader) (slot : Nat) (f : Record → Record) (s : State) : State :=
  (s.read rd slot isStateWord).modify slot f

/-- The bank a read gives back: the values written, but for the fields in uncorrectable words "the values read, which are not
to be trusted" (R21, R112; log 15). -/
def Store.bankRead (slot : Nat) (ix : BankIx) (bank : Bank) (st : Store) : Bank :=
  let words := st.doubles slot (isBankWord ix)
  if words = [] then bank else bank.mix (liesIn words) (Config.bankAsRead words bank)

/-- The filtered temperature of a record becomes INVALID (R87): a write of some fields of a drift word, so the words of that kind
are read first (R148; logs 11 and 15). -/
def Dt.invalidate (cx : Ctx) (slot : Nat) (st : Store) : Store :=
  (Rt.read cx .dt slot isReadingWord st).modify slot fun r => { r with theta := none }

/-- The filtered temperature of a record of a state made INVALID. -/
def State.invalidate (slot : Nat) (s : State) : State := s.onStore fun cx st => Dt.invalidate cx slot st

/-! ### The slew of a boundary (R92, R100) -/

/-- One record slewed: the drift words are read, and an uncorrectable one reinitialises them in place of the slew. -/
def Dt.slewRecord (cx : Ctx) (step : Nat) (slot : Nat) (st : Store) : Store :=
  let st := st.correct slot isDriftWord
  let n := (st.doubles slot isDriftWord).length
  if n = 0 then st.modify slot (Record.slewed step)
  else Dt.reinitialise cx slot (st.foundDouble cx .dt slot .drift n)

/-- Every record in use slewed (R92). -/
def Dt.slew (s : State) : State :=
  s.onStore fun cx st => st.eachInUse (Dt.slewRecord cx s.params.slewStep)

/-- Every record in use that passes a test recomputed, the applied gains left to slew (R91). -/
def Dt.recomputeWhere (p : Record → Bool) (s : State) : State :=
  s.onStore fun cx st => st.eachInUse (fun slot acc => if p (acc.get slot) then Dt.recompute cx .slew slot acc else acc)

end Sys2Proof.Machine
end

