-- ==== Sys2Proof/Machine/Executor.lean ====
section
/-! DEFINITION. Machine/Executor.lean: the Command Executor's taking of a message and appending of its answer (R177), the
permissions and the zone check (R179). -/
namespace Sys2Proof.Machine

/-- The command codes the part defines (the code stands beside each command's name in its chapter). -/
def knownCodes : List Nat :=
  [0x00, 0x01, 0x02, 0x03, 0x04, 0x05,
   0x10, 0x11, 0x12, 0x13, 0x14, 0x15, 0x16, 0x17, 0x18,
   0x20, 0x21, 0x22,
   0x30, 0x31, 0x32, 0x33, 0x34, 0x35, 0x36, 0x37, 0x38, 0x39,
   0x40, 0x41, 0x4C,
   0x50, 0x51, 0x52, 0x53,
   0x60, 0x61, 0x62, 0x63, 0x64]

/-- The other command port. -/
def Port.other : Port → Port
  | .a => .b
  | .b => .a

/-- A port the executor may take from: its message queue is not empty, its answer queue has a free place, and Port B is
attached (R177). -/
def State.eligible (s : State) (p : Port) : Bool :=
  s.store.nu.attached p && !(s.port p).messages.isEmpty && decide ((s.port p).answers.length < 4)

/-- The port the executor takes next: of two eligible ports the one it did not take last (R177). -/
def State.nextPort (s : State) : Option Port :=
  if s.eligible s.lastTaken.other then some s.lastTaken.other
  else if s.eligible s.lastTaken then some s.lastTaken
  else none

/-- The message the executor takes next, its port, and the state once it has left the queue. -/
def Cx.take (s : State) : Option (Port × Message × State) :=
  match s.nextPort with
  | none => none
  | some p =>
    match (s.port p).messages with
    | [] => none
    | m :: rest => some (p, m, { s.onPort p fun q => { q with messages := rest } with lastTaken := p })

/-- An answer appended to a port's answer queue, with the tag of the message (R177). -/
def Cx.answer (p : Port) (tag : Byte) (r : Reply) (s : State) : State :=
  s.onPort p fun q => { q with answers := q.answers ++ [r.toAnswer tag] }

/-- What a command does once its message has been taken: the answer, and the state it leaves. -/
abbrev Body := Port → List Byte → State → Reply × State

/-- Checks 2 and 3 of R177 before a command's own: a command of Port A alone is refused to Port B, and a payload whose length
does not suit the operands is refused; a refused command changes nothing. -/
def Cx.checked (aOnly : Bool) (fits : Nat → Bool) (body : Body) : Body := fun p payload s =>
  if aOnly && p == .b then (.bare .notPermitted, s)
  else if !fits payload.length then (.badField lengthFault, s)
  else body p payload s

/-- One command carried out: the executor takes the next message, which must carry one of the codes named, and its answer is
appended.  Where the next message is another command's, or there is none, the event has not come about and nothing
changes (log 1). -/
def Cx.run (codes : Nat → Bool) (body : Body) (s : State) : State :=
  match Cx.take s with
  | none => s
  | some (p, m, s') =>
    if codes m.code.toNat then
      let (r, s'') := body p m.payload s'
      Cx.answer p m.tag r s''
    else s

/-- A command with one code. -/
def Cx.command (code : Nat) (aOnly : Bool) (fits : Nat → Bool) (body : Body) (s : State) : State :=
  Cx.run (· == code) (Cx.checked aOnly fits body) s

/-- The outcome of a command that always leads to a next state. -/
abbrev Result := Host.Outcome State Fault Refusal

/-- Whether a zone is empty (R179). -/
def Zone.isEmpty (z : Zone) : Bool := decide (z.upper < z.lower)

/-- Whether a seat lies in a zone: lower..upper, both ends included (R179). -/
def Zone.contains (z : Zone) (seat : Nat) : Bool := decide (z.lower ≤ seat ∧ seat ≤ z.upper)

/-- The four zones in order. -/
def Zones.toList (z : Zones) : List Zone := [z.z0, z.z1, z.z2, z.z3]

/-- The zone check of a port for a seat, or for ABSENT (R179). -/
def State.zonePass (s : State) (p : Port) : Option Nat → Bool
  | none => true
  | some seat => ((s.port p).zones.toList).any fun z => z.contains seat

/-- The port a code names (R188). -/
def portOf : Nat → Option Port
  | 0 => some .a
  | 1 => some .b
  | _ => none

end Sys2Proof.Machine
end

