-- ==== Sys2Proof/Machine/Records.lean ====
section
/-! DEFINITION. Machine/Records.lean: the Record Table (01): creation, retirement, allocation, the record commands and the
batch default commands. -/
namespace Sys2Proof.Machine

/-! ### Creation, retirement, allocation -/

/-- A record created in a slot taken from the Free Slot Queue (R3): the fields, the Identity Index entry, then the targets with
the applied gains set equal to them. -/
def Rt.create (slot identity batch : Nat) (byLoad : Bool) (s : State) : State :=
  let r : Record :=
    { Record.blank with
      state := .new
      identity := identity
      batch := batch
      lastSeen := s.ftu.frameCount
      createdByLoad := byLoad }
  let s := { s with
    store := (s.store.put slot r).mend slot fun _ => true
    index := Table.set none identity (some ⟨slot, batch⟩) s.index }
  s.onStore fun cx st => Dt.retarget cx .set slot (cx.fallbackBank r) st

/-- A record retired (R4): its identity leaves the index, every word of the slot is written as zero, and the slot joins the tail
of the Free Slot Queue. -/
def Rt.retire (slot : Nat) (s : State) : State :=
  { s with
    index := Table.set none (s.record slot).identity none s.index
    store := (s.store.put slot Record.blank).mend slot fun _ => true
    freeQueue := s.freeQueue ++ [slot] }

/-- Whether a record may be auto-reclaimed (R14). -/
def Record.reclaimable (r : Record) : Bool :=
  r.inUse && r.seat.isNone && r.hold == .none && r.condition == .closed && !r.createdByLoad

/-- A record's age: the frame count minus its last seen, modulo 2^32 (R14). -/
def Record.age (frame : FrameCount) (r : Record) : Nat := (frame - r.lastSeen).toNat

/-- The slot of the eligible record with the greatest age, the lowest slot among equal ages (R14). -/
def Rt.oldest (s : State) : Option Nat :=
  let eligible := (Table.keys s.store.records).filter fun n => (s.record n).reclaimable
  eligible.foldl (fun best n => match best with
    | none => some n
    | some m =>
      if (s.record m).age s.ftu.frameCount < (s.record n).age s.ftu.frameCount then some n else some m) none

/-- An allocation (R13): the slot given, or none, and the identity an auto-reclaim retired, or 0. -/
def Rt.allocate (s : State) : Option (Nat × Nat) × State :=
  match s.freeQueue with
  | slot :: rest => (some (slot, 0), { s with freeQueue := rest })
  | [] =>
    if s.params.autoReclaim then
      match Rt.oldest s with
      | none => (none, s)
      | some victim =>
        let s' := (Rt.retire victim s).count .reclaims
        match s'.freeQueue with
        | [] => (none, s)
        | slot :: rest => (some (slot, (s.record victim).identity), { s' with freeQueue := rest })
    else (none, s)

/-- An allocation with the creation that follows it, one operation at RT (R13), and POOL_LOW evaluated once after it (R16). -/
def Rt.allocateCreate (identity batch : Nat) (byLoad : Bool) (s : State) : Option (Nat × Nat) × State :=
  match Rt.allocate s with
  | (none, _) => (none, s)
  | (some (slot, retired), s') =>
    (some (slot, retired), (Rt.create slot identity batch byLoad s').poolOnset s.poolLow)

/-- A retirement with POOL_LOW evaluated after it (R4, R16). -/
def Rt.retireEvaluated (slot : Nat) (s : State) : State := (Rt.retire slot s).poolOnset s.poolLow

/-! ### Record commands (1.6) -/

/-- The check every command with a slot operand first makes (R18): BAD_FIELD above 2047, NO_RECORD where the slot is FREE. -/
def withSlot (payload : List Byte) (body : Nat → State → Reply × State) (s : State) : Reply × State :=
  let slot := natAt payload 0 2
  if 2047 < slot then (.badField 0, s)
  else if !(s.record slot).inUse then (.bare .noRecord, s)
  else body slot s

/-- The lowest-numbered seat that is UNRECORDED with an identity (R19). -/
def unrecordedSeatOf (seats : Table Seat) (identity : Nat) : Option Nat :=
  Table.findKey (fun e => match e.kind with
    | .unrecorded x _ => x == identity
    | _ => false) seats

/-- CREATE_RECORD's own part (R19). -/
def Rt.createBody : Body := fun _ payload s =>
  let identity := natAt payload 0 6
  if identity = 0 then (.badField 0, s)
  else match s.lookup identity with
    | some e => (⟨.exists_, u16 e.slot⟩, s)
    | none =>
      match Rt.allocateCreate identity (natAt payload 6 2) false s with
      | (none, _) => (.bare .poolEmpty, s)
      | (some (slot, retired), s') =>
        let place := unrecordedSeatOf s'.seats identity
        let s'' := match place with
          | none => s'
          | some n =>
            (s'.setSeat n { s'.seat n with kind := .placed slot }).writeStateWord .pu slot fun r =>
              { r with seat := some n, lastSeen := s'.ftu.frameCount }
        (.ok (u16 slot ++ optU16 place ++ beBytes 6 retired ++ u16 s''.freeCount), s'')

/-- CREATE_RECORD, 10h (R19). -/
def execCreateRecord (s : State) : Result := .next (Cx.command 0x10 false (· == 8) Rt.createBody s)

/-- FIND_RECORD's own part (R20). -/
def Rt.findBody : Body := fun _ payload s =>
  let identity := natAt payload 0 6
  if identity = 0 then (.badField 0, s)
  else match s.lookup identity with
    | none => (.bare .noRecord, s)
    | some e =>
      let s' := s.read .rt e.slot isStateWord
      let r := s'.record e.slot
      (.ok (u16 e.slot ++ byteOf r.state.code ++ optU16 r.seat ++ halfBytes r.generation), s')

/-- FIND_RECORD, 11h (R20). -/
def execFindRecord (s : State) : Result := .next (Cx.command 0x11 false (· == 6) Rt.findBody s)

/-- The words READ_RECORD reads: all but the pending bank's (R21). -/
def isReadRecordWord (active : BankIx) (w : ArrayWord) : Bool :=
  isIdentityWord w || isStateWord w || isBankWord active w || isDriftWord w

/-- The items of READ_RECORD's answer (R21).  The index of the active bank is carried in one byte (DEDUCED, log 16). -/
def Rt.recordItems (slot : Nat) (r : Record) (image : Bank) (free : Nat) : List Byte :=
  u16 slot ++ byteOf r.state.code ++ beBytes 6 r.identity ++ u16 r.batch ++ optU16 r.seat ++ beBytes 4 r.lastSeen.toNat ++
    byteOf r.active.index ++ halfBytes r.generation ++ halfBytes r.bankCheck ++
    byteOf r.hold.code ++ byteOf r.condition.code ++ flagByte r.pendingDamaged ++ flagByte r.createdByLoad ++
    thetaBytes r.theta ++ beBytes 3 r.hours ++
    (Prim.toList r.target).flatMap u16 ++ (Prim.toList r.applied).flatMap u16 ++
    flagByte r.ceiling ++ flagByte r.regressed ++ u16 free ++ bankImage image

/-- READ_RECORD's own part (R21). -/
def Rt.readBody : Body := fun _ payload s => withSlot payload (fun slot s =>
  let s' := s.read .rt slot (isReadRecordWord (s.record slot).active)
  let r := s'.record slot
  (.ok (Rt.recordItems slot r (s'.store.bankRead slot r.active r.activeBank) s'.freeCount), s')) s

/-- READ_RECORD, 12h (R21). -/
def execReadRecord (s : State) : Result := .next (Cx.command 0x12 false (· == 2) Rt.readBody s)

/-- Whether a state is in a SCAN_RECORDS filter (R188). -/
def inFilter (filter : Nat) : RecordState → Bool
  | .free => filter.testBit 0
  | .new => filter.testBit 1
  | .live => filter.testBit 2
  | .suspect => filter.testBit 3

/-- The walk of SCAN_RECORDS: slots examined in ascending order until 16 are found or slot 2047 has been examined.  The first
argument is the number of slots left to examine. -/
def Rt.scan (filter : Nat) : Nat → Nat → List Nat → State → List Nat × Nat × State
  | 0, slot, found, s => (found, slot, s)
  | left + 1, slot, found, s =>
    if 16 ≤ found.length then (found, slot, s)
    else
      let s' := s.read .rt slot isStateWord
      Rt.scan filter left (slot + 1) (if inFilter filter (s'.record slot).state then found ++ [slot] else found) s'

/-- SCAN_RECORDS's own part (R22). -/
def Rt.scanBody : Body := fun _ payload s =>
  let first := natAt payload 0 2
  let filter := natAt payload 2 1 % 16
  if 2048 < first then (.badField 0, s)
  else if filter = 0 then (.badField 2, s)
  else
    let (found, next, s') := Rt.scan filter (2048 - first) first [] s
    (.ok (found.flatMap u16 ++ u16 next ++ u16 s'.freeCount), s')

/-- SCAN_RECORDS, 13h (R22). -/
def execScanRecords (s : State) : Result := .next (Cx.command 0x13 false (· == 3) Rt.scanBody s)

/-- RETIRE_RECORD's own part (R23). -/
def Rt.retireBody : Body := fun p payload s => withSlot payload (fun slot s =>
  let r := s.record slot
  if r.hold ≠ .none then (.bare .held, s)
  else match r.seat with
    | some seat => (⟨.placed, u16 seat⟩, s)
    | none =>
      if !s.zonePass p r.seat then (.bare .zone, s)
      else
        let s' := Rt.retireEvaluated slot s
        (.ok (beBytes 6 r.identity ++ u16 s'.freeCount), s')) s

/-- RETIRE_RECORD, 14h (R23). -/
def execRetireRecord (s : State) : Result := .next (Cx.command 0x14 false (· == 2) Rt.retireBody s)

/-- The words READ_DRIFT reads: the drift words, and a LIVE record's active bank as DT reads it (R102). -/
def isReadDriftWord (r : Record) (w : ArrayWord) : Bool :=
  isDriftWord w || (r.state == .live && isDriftBankWord r.active w)

/-- The items of READ_DRIFT for one primary. -/
def driftItems (step target applied : Nat) : List Byte :=
  u16 target ++ u16 applied ++ u16 (boundariesToTarget step applied target)

/-- READ_DRIFT's own part (R102). -/
def Dt.readBody : Body := fun _ payload s => withSlot payload (fun slot s =>
  let s' := s.read .dt slot (isReadDriftWord (s.record slot))
  let r := s'.record slot
  let (source, bank) := s'.ctx.bankInUse r
  let step := s'.params.slewStep
  (.ok (byteOf r.state.code ++ optU16 r.seat ++ source.bytes ++ beInt 2 bank.thetaRef ++ thetaBytes r.theta ++
    beInt 2 (delta r.theta bank.thetaRef) ++ beBytes 3 r.hours ++ flagByte r.ceiling ++ flagByte r.regressed ++
    driftItems step r.target.r r.applied.r ++ driftItems step r.target.g r.applied.g ++
    driftItems step r.target.b r.applied.b ++
    beBytes 4 s'.params.headroomLimit ++ beBytes 4 step ++ byteOf s'.driftCounter), s')) s

/-- READ_DRIFT, 15h (R102). -/
def execReadDrift (s : State) : Result := .next (Cx.command 0x15 false (· == 2) Dt.readBody s)

/-! ### Batch default commands (1.7) -/

/-- Whether a record draws its bank in use from a batch code: NEW or SUSPECT and of that batch (R24). -/
def Record.usesBatch (batch : Nat) (r : Record) : Bool :=
  (r.state == .new || r.state == .suspect) && r.batch == batch

/-- The entry a batch code's bank goes into: the code's own, else the lowest-numbered empty one (R24). -/
def batchSlotFor (batches : Table (Option BatchEntry)) (batch : Nat) : Option Nat :=
  match batchEntryOf batches batch with
  | some (n, _) => some n
  | none => (List.range 16).find? fun n => (Table.get none batches n).isNone

/-- SET_BATCH_DEFAULT's own part (R24). -/
def Rt.setBatchBody : Body := fun _ payload s =>
  let batch := natAt payload 0 2
  match bankFault 2 (payload.drop 2) with
  | some offset => (.badField offset, s)
  | none =>
    match batchSlotFor s.batches batch with
    | none => (.bare .listFull, s)
    | some n =>
      let bank := bankOf (payload.drop 2)
      let s' := { s with batches := Table.set none n (some ⟨batch, bank⟩) s.batches }
      (.ok (byteOf n ++ halfBytes (bankCrc bank)), Dt.recomputeWhere (Record.usesBatch batch) s')

/-- SET_BATCH_DEFAULT, 16h (R24). -/
def execSetBatchDefault (s : State) : Result :=
  .next (Cx.command 0x16 true (fun n => decide (41 ≤ n)) Rt.setBatchBody s)

/-- CLEAR_BATCH_DEFAULT's own part (R25). -/
def Rt.clearBatchBody : Body := fun _ payload s =>
  let batch := natAt payload 0 2
  match batchEntryOf s.batches batch with
  | none => (.bare .noRecord, s)
  | some (n, _) =>
    let s' := { s with batches := Table.set none n none s.batches }
    (.ok (byteOf n), Dt.recomputeWhere (Record.usesBatch batch) s')

/-- CLEAR_BATCH_DEFAULT, 17h (R25). -/
def execClearBatchDefault (s : State) : Result := .next (Cx.command 0x17 true (· == 2) Rt.clearBatchBody s)

/-- READ_BATCH_DEFAULT's own part (R26). -/
def Rt.readBatchBody : Body := fun _ payload s =>
  let n := natAt payload 0 1
  if 15 < n then (.badField 0, s)
  else match Table.get none s.batches n with
    | none => (.ok (flagByte true), s)
    | some e => (.ok (u16 e.batch ++ bankImage e.bank ++ halfBytes (bankCrc e.bank)), s)

/-- READ_BATCH_DEFAULT, 18h (R26). -/
def execReadBatchDefault (s : State) : Result := .next (Cx.command 0x18 false (· == 1) Rt.readBatchBody s)

end Sys2Proof.Machine
end

