-- ==== Sys2Proof/Machine/Seats.lean ====
section
/-! DEFINITION. Machine/Seats.lean: the Presence Unit (02): what reports do to seats and records, the offers they make to the
Drift Tracker (05), seat ageing and the seat commands. -/
namespace Sys2Proof.Machine

/-! ### Offers to the Drift Tracker (R85, R86, R88, R101) -/

/-- A STATUS offer that recomputed, counted toward the next DRIFT_BATCH (R101). -/
def Dt.countOffer (s : State) : State :=
  if s.params.driftGap = 0 then s
  else if s.driftCounter + 1 = s.params.driftGap then { s with driftCounter := 0 }.addBoth .driftBatch
  else { s with driftCounter := s.driftCounter + 1 }

/-- The record after a reading of temperature, if one is offered, has passed the filter and the hours have passed the hours
check (R86, R88). -/
def Record.offered (temperature : Option Int) (hours : Nat) (r : Record) : Record :=
  { r with
    theta := temperature.elim r.theta fun t => some (filterTheta r.theta t)
    hours := max r.hours hours
    regressed := r.regressed || decide (hours < r.hours) }

/-- An offer taken by DT as one step (R85).  `counts` says whether it is a STATUS's.  The filter and the hours check read every drift
word, before the recompute: a damaged one reinitialises first, and the offered values are taken on the cleared fields (log 11). -/
def Dt.offer (slot : Nat) (temperature : Option Int) (hours : Nat) (counts : Bool) (s : State) : State :=
  let s := s.read .dt slot isDriftWord
  let r := s.record slot
  let r' := r.offered temperature hours
  let s := s.modify slot fun _ => r'
  let s := if hours < r.hours then s.count .hoursRegressed else s
  if r'.theta ≠ r.theta ∨ r'.hours ≠ r.hours then
    let s := s.onStore fun cx st => Dt.recompute cx .slew slot st
    if counts then Dt.countOffer s else s
  else s

/-! ### Placement and displacement (R28, R37) -/

/-- A record that leaves its seat: ABSENT, its filtered temperature INVALID (R37, R39, R47, R87).  Both are writes of some fields of a
word, the state word's first: what its read finds is dealt with while the temperature still stands (log 11). -/
def Pu.makeAbsent (slot : Nat) (s : State) : State :=
  (s.writeStateWord .pu slot fun r => { r with seat := none }).invalidate slot

/-- What a seat holds displaced, unless it is the record in slot `keep` (R37).  The seat itself is written afterwards. -/
def Pu.displace (seat : Nat) (keep : Option Nat) (s : State) : State :=
  match (s.seat seat).kind with
  | .placed slot => if keep = some slot then s else Pu.makeAbsent slot s
  | _ => s

/-- A record placed at a seat by an arrival: REPORTED, FRESH, frames-since 0, last seen the frame count (R37). -/
def Pu.seatArrival (seat slot : Nat) (s : State) : State :=
  let s := Pu.displace seat (some slot) s
  let s := s.writeStateWord .pu slot fun r => { r with seat := some seat, lastSeen := s.ftu.frameCount }
  s.setSeat seat ⟨.placed slot, .reported, .fresh, 0⟩

/-- A seat left UNRECORDED by an arrival, with the count and the event where it was not so before (R33, R36, R37). -/
def Pu.unrecorded (seat identity batch : Nat) (counter : Counter) (event : Event) (s : State) : State :=
  let again := match (s.seat seat).kind with
    | .unrecorded x _ => x == identity
    | _ => false
  let s := Pu.displace seat none s
  let s := s.setSeat seat ⟨.unrecorded identity batch, .reported, .fresh, 0⟩
  if again then s else (s.count counter).addBoth event

/-- The record moved out of the seat it is placed at: that seat VACANT, the filtered temperature INVALID (R34).  The temperature is
made INVALID before the placement reads the state word (log 11). -/
def Pu.leave (slot oldSeat : Nat) (s : State) : State := (s.setSeat oldSeat Seat.vacant).invalidate slot

/-- Whether a seat keeps its record in an identity clash: FRESH with origin REPORTED (R32). -/
def Seat.wins (e : Seat) : Bool := e.fresh == .fresh && e.origin == .reported

/-- An arrival of an identity at a seat (R32 to R37).  The seat the record names is looked at without a read of its state word, so an
arrival that ends in a clash finds no error there (log 11). -/
def Pu.arrive (seat : Nat) (r : Report) (temperature : Option Int) (counts : Bool) (s : State) : State :=
  match s.lookup r.identity with
  | some e =>
    let record := s.record e.slot
    match record.seat with
    | none => Dt.offer e.slot temperature r.hours counts (Pu.seatArrival seat e.slot s)
    | some s1 =>
      if s1 = seat then Dt.offer e.slot temperature r.hours counts (Pu.seatArrival seat e.slot s)
      else if (s.seat s1).wins then Pu.unrecorded seat r.identity record.batch .clashes .identityClash s
      else Dt.offer e.slot temperature r.hours counts (Pu.seatArrival seat e.slot (Pu.leave e.slot s1 s))
  | none =>
    if s.params.autoCreate then
      match Rt.allocateCreate r.identity r.batch false s with
      | (some (slot, _), s') => Dt.offer slot temperature r.hours counts (Pu.seatArrival seat slot s')
      | (none, _) => Pu.unrecorded seat r.identity r.batch .unrecordedArrivals .unrecordedArrival s
    else Pu.unrecorded seat r.identity r.batch .unrecordedArrivals .unrecordedArrival s

/-- A STATUS from the seat's own occupant (R38). -/
def Pu.confirm (seat slot : Nat) (temperature : Option Int) (hours : Nat) (s : State) : State :=
  let s := s.setSeat seat ⟨.placed slot, .reported, .fresh, 0⟩
  let s := s.writeStateWord .pu slot fun r => { r with lastSeen := s.ftu.frameCount }
  Dt.offer slot temperature hours true s

/-- A seat emptied: its occupant ABSENT, its UNRECORDED tile dropped (R39, R47). -/
def Pu.empty (seat : Nat) (s : State) : State := (Pu.displace seat none s).setSeat seat Seat.vacant

/-! ### Taking a report (R30, R31, R59) -/

/-- The gap consequence at one seat entry: a REPORTED seat that is not VACANT becomes UNCONFIRMED (R31). -/
def Seat.gapped (e : Seat) : Seat :=
  if e.kind ≠ .vacant ∧ e.origin = .reported then { e with fresh := .unconfirmed } else e

/-- The gap consequence at every seat of a distribution port (R31). -/
def Pu.gap (distPort : Nat) (s : State) : State :=
  { s with seats := Table.mapEntries Seat.vacant (fun n e => if n / 96 = distPort then e.gapped else e) s.seats }

/-- The seat a report names (R27). -/
def Report.seat (r : Report) : Nat := r.distPort * 96 + r.chain

/-- A report handled by its kind and by what its seat holds (R30). -/
def Pu.handle (r : Report) (s : State) : State :=
  let s := if r.gap then Pu.gap r.distPort s else s
  match r.kind with
  | .announce => Pu.arrive r.seat r none false s
  | .lost => Pu.empty r.seat s
  | .status temperature =>
    match (s.seat r.seat).kind with
    | .placed slot =>
      if (s.record slot).identity = r.identity then Pu.confirm r.seat slot temperature r.hours s
      else Pu.arrive r.seat r temperature true s
    | _ => Pu.arrive r.seat r temperature true s

/-- The head of the intake queue taken and handled whole, where its kind is the one named (R59); otherwise the event has not
come about and nothing changes (log 1). -/
def Pu.takeHead (isKind : ReportKind → Bool) (s : State) : State :=
  match s.trl.queue with
  | [] => s
  | r :: rest => if isKind r.kind then Pu.handle r { s with trl := { s.trl with queue := rest } } else s

def ReportKind.isAnnounce : ReportKind → Bool
  | .announce => true
  | _ => false

def ReportKind.isStatus : ReportKind → Bool
  | .status _ => true
  | _ => false

def ReportKind.isLost : ReportKind → Bool
  | .lost => true
  | _ => false

/-- ANNOUNCE: PU takes an ANNOUNCE from the head of the intake queue (R30). -/
def execAnnounce (s : State) : Result := .next (Pu.takeHead ReportKind.isAnnounce s)

/-- STATUS: PU takes a STATUS from the head of the intake queue (R30, R38). -/
def execStatus (s : State) : Result := .next (Pu.takeHead ReportKind.isStatus s)

/-- LOST: PU takes a LOST from the head of the intake queue (R30, R39). -/
def execLost (s : State) : Result := .next (Pu.takeHead ReportKind.isLost s)

/-! ### Freshness at each boundary (R42, R43) -/

/-- A seat a boundary ages: not VACANT, origin REPORTED (R42). -/
def Seat.ages (e : Seat) : Bool := e.kind != .vacant && e.origin == .reported

/-- One seat aged: frames-since raised by 1, saturating (R42). -/
def Seat.aged (e : Seat) : Seat := if e.ages then { e with since := saturate e.since 1 } else e

/-- Whether an aged seat becomes STALE (R42). -/
def Seat.goesStale (timeout : Nat) (e : Seat) : Bool :=
  e.ages && e.fresh == .fresh && timeout != 0 && decide (timeout ≤ e.since)

/-- Every seat aged at a boundary; the check that follows it is then due (R42). -/
def Pu.age (s : State) : State :=
  { s with seats := Table.mapEntries Seat.vacant (fun _ e => e.aged) s.seats, seatCheckDue := true }

/-- The check of a boundary's ageing: every FRESH REPORTED seat whose frames-since has reached STATUS_TIMEOUT becomes STALE, and
SEAT_STALE is added to both ports where one does (R42, R43). -/
def Pu.staleCheck (s : State) : State :=
  if s.seatCheckDue then
    let timeout := s.params.statusTimeout
    let any := s.seats.any fun e => e.2.goesStale timeout
    let s := { s with
      seats := Table.mapEntries Seat.vacant (fun _ e => if e.goesStale timeout then { e with fresh := .stale } else e) s.seats
      seatCheckDue := false }
    if any then s.addBoth .seatStale else s
  else s

/-- SEAT_STALE: the check that makes seats STALE, where a boundary's ageing has it due (R42).  Each boundary takes it within its
own step (log 8). -/
def execSeatStale (s : State) : Result := .next (Pu.staleCheck s)

/-! ### Seat commands (2.6) -/

/-- PLACE_SEAT's own part (R46).  The seat the record names is looked at without a read of its state word: only the placement reads it
(log 11). -/
def Pu.placeBody : Body := fun _ payload s =>
  let seat := natAt payload 0 2
  let slot := natAt payload 2 2
  let r := s.record slot
  let placed := fun (s : State) => s.setSeat seat ⟨.placed slot, .manual, .fresh, 0⟩
  if 1535 < seat then (.badField 0, s)
  else if 2047 < slot then (.badField 2, s)
  else if !r.inUse then (.bare .noRecord, s)
  else match r.seat with
    | none =>
      let held := (s.seat seat).kind
      let s' := Pu.displace seat none s
      let s' := s'.writeStateWord .pu slot fun r => { r with seat := some seat, lastSeen := s'.ftu.frameCount }
      (.ok (SeatKind.bytes held), placed s')
    | some s1 =>
      if s1 = seat then (.ok (SeatKind.bytes .vacant), placed s)
      else (⟨.placed, u16 s1⟩, s)

/-- PLACE_SEAT, 20h (R46). -/
def execPlaceSeat (s : State) : Result := .next (Cx.command 0x20 true (· == 4) Pu.placeBody s)

/-- VACATE_SEAT's own part (R47). -/
def Pu.vacateBody : Body := fun _ payload s =>
  let seat := natAt payload 0 2
  if 1535 < seat then (.badField 0, s)
  else (.ok (SeatKind.bytes (s.seat seat).kind), Pu.empty seat s)

/-- VACATE_SEAT, 21h (R47). -/
def execVacateSeat (s : State) : Result := .next (Cx.command 0x21 false (· == 2) Pu.vacateBody s)

/-- READ_SEAT's own part (R48). -/
def Pu.readBody : Body := fun _ payload s =>
  let seat := natAt payload 0 2
  let e := s.seat seat
  if 1535 < seat then (.badField 0, s)
  else (.ok (u16 seat ++ e.kind.bytes ++ byteOf e.origin.code ++ byteOf e.fresh.code ++ u16 e.since ++
    u16 (Table.get 0 s.cd.readable seat)), s)

/-- READ_SEAT, 22h (R48). -/
def execReadSeat (s : State) : Result := .next (Cx.command 0x22 false (· == 2) Pu.readBody s)

end Sys2Proof.Machine
end

