-- ==== Sys2Proof/Machine/Commit.lean ====
section
/-! DEFINITION. Machine/Commit.lean: the Commit Unit (06): holds and their timers, edits, commit lists, scheduled sets, and the
application of commits at a boundary. -/
namespace Sys2Proof.Machine

/-! ### Discarding and expiring (R105, R107) -/

/-- A slot taken out of both commit lists and all three scheduled sets (R105). -/
def Cu.unlist (slot : Nat) (s : State) : State :=
  let drop := fun (q : PortState) => { q with
    commitList := q.commitList.filter (· ≠ slot)
    scheduled := q.scheduled.filter (· ≠ slot) }
  { s with
    portA := drop s.portA
    portB := drop s.portB
    load := { s.load with scheduled := s.load.scheduled.filter (· ≠ slot) } }

/-- The pending bank of a record discarded: every claim on it ended (R105). -/
def Cu.discard (slot : Nat) (s : State) : State :=
  (Cu.unlist slot s).modify slot fun r => { r with hold := .none, condition := .closed, pendingDamaged := false }

/-- Several pending banks discarded. -/
def Cu.discardAll (slots : List Nat) (s : State) : State := slots.foldl (fun acc slot => Cu.discard slot acc) s

/-- The slots whose record passes a test, ascending. -/
def State.slotsWhere (p : Record → Bool) (s : State) : List Nat :=
  (Table.keys s.store.records).filter fun n => p (s.record n)

/-- Whether a port's hold is due to expire: its timer runs and stands at 0 (R107). -/
def Record.expires (p : Port) (r : Record) : Bool := r.timerRuns && r.hold == p.hold && r.holdTimer == 0

/-- The holds of one port whose timers stand at 0 expire: the pending banks discarded, the last expiry set, HOLD_EXPIRED added once
(R107). -/
def Cu.expirePort (p : Port) (s : State) : State :=
  let slots := s.slotsWhere (Record.expires p)
  match lowest slots with
  | none => s
  | some first =>
    ((Cu.discardAll slots s).onPort p fun q =>
      { q with expiry := some ⟨s.ftu.frameCount, slots.length, first⟩ }).addEvent p .holdExpired

/-- The holds of both ports whose timers stand at 0 expire (R107). -/
def Cu.expire (s : State) : State := Cu.expirePort .b (Cu.expirePort .a s)

/-- HOLD_EXPIRED: every port hold whose timer stands at 0 expires (R107).  Each boundary takes it within its own step (log 8). -/
def execHoldExpired (s : State) : Result := .next (Cu.expire s)

/-- One record's hold timer at a boundary (R106). -/
def Record.ticked (r : Record) : Record := if r.timerRuns then { r with holdTimer := r.holdTimer - 1 } else r

/-- Every running hold timer lowered by 1 (R106). -/
def Cu.ageHolds (s : State) : State :=
  { s with store := { s.store with records := Table.mapEntries Record.blank (fun _ r => r.ticked) s.store.records } }

/-! ### Applying commits at a boundary (6.6) -/

/-- A commit taking effect (R123): the banks exchange roles, generation and bank check follow, the state word is written LIVE, the
targets are recomputed with the applied gains set to them, and the hold ends.  DEDUCED: the write of LIVE is RT's own writing of a state code
(R148), so a state word it finds uncorrectable is named in the last finding with the reader RT, though R123 has CU make the change (log 11). -/
def Cu.commit (slot : Nat) (s : State) : State :=
  let s := s.modify slot fun r => { r with
    active := BankIx.other r.active
    generation := r.generation + 1
    bankCheck := r.expectedCrc }
  let s := s.writeStateWord .rt slot fun r => { r with state := .live }
  let s := s.onStore fun cx st => Dt.recompute cx .set slot st
  Cu.discard slot s

/-- What a scheduled set came to: the numbers committed and dropped, and the lowest slot dropped (R125). -/
structure SetResult where
  committed : Nat
  failed : Nat
  firstFailed : Option Nat
  deriving DecidableEq, Repr, Inhabited

/-- The records of one scheduled set applied: committed, or dropped where pending damaged is set (R122 to R124). -/
def Cu.applySet (slots : List Nat) (s : State) : SetResult × State :=
  let bad := slots.filter fun n => (s.record n).pendingDamaged
  let s' := slots.foldl (fun acc n => if (acc.record n).pendingDamaged then Cu.discard n acc else Cu.commit n acc) s
  (⟨slots.length - bad.length, bad.length, lowest bad⟩, s')

/-- One port's scheduled set applied; where it was not empty, the outcome is set and COMMIT_DONE added (R125). -/
def Cu.applyPort (p : Port) (s : State) : State :=
  let slots := (s.port p).scheduled
  if slots = [] then s
  else
    let (r, s') := Cu.applySet slots s
    (s'.onPort p fun q => { q with
      scheduled := []
      outcome := ⟨s.ftu.frameCount, r.committed, r.failed, r.firstFailed⟩ }).addEvent p .commitDone

/-! ### Edit commands (6.2 to 6.5) -/

/-- The check of R108 that the record is held by the requesting port. -/
def withHold (p : Port) (slot : Nat) (body : State → Reply × State) (s : State) : Reply × State :=
  let hold := (s.record slot).hold
  if hold = .none then (.bare .notHeld, s)
  else if hold ≠ p.hold then (⟨.held, byteOf hold.code⟩, s)
  else body s

/-- The source and the bank OPEN_EDIT copies: the active bank of a LIVE record, the batch default or the unity bank of a NEW one, the
unity bank of a SUSPECT one (R110). -/
def copySource (s : State) (r : Record) : BankSource × Bank :=
  match r.state with
  | .live => (.active r.active, r.activeBank)
  | .new => batchBank s.batches s.params.fallbackGain r.batch
  | _ => (.unity, unityBank s.params.fallbackGain)

/-- The words OPEN_EDIT's copy reads: the state word, and a LIVE record's active bank (R110).  They are one read, and whether the record
is LIVE is taken from before it (log 11). -/
def isCopyWord (r : Record) (w : ArrayWord) : Bool := isStateWord w || (r.state == .live && isBankWord r.active w)

/-- A record's pending bank written whole (R148, R163). -/
def State.fillPending (slot : Nat) (bank : Bank) (s : State) : State :=
  let ix := (s.record slot).pendingIx
  let st := s.store.modify slot fun r => r.setBank r.pendingIx bank
  { s with store := st.mend slot (isBankWord ix) }

/-- OPEN_EDIT's own part (R109, R110).  The index of the pending bank is carried in one byte (DEDUCED, log 16). -/
def Cu.openBody : Body := fun p payload s => withSlot payload (fun slot s =>
  let r := s.record slot
  if r.hold ≠ .none then (⟨.held, byteOf r.hold.code ++ byteOf r.condition.code⟩, s)
  else if !s.zonePass p r.seat then (.bare .zone, s)
  else
    let s := s.read .cu slot (isCopyWord r)
    let r := s.record slot
    let (source, bank) := copySource s r
    let s := (s.fillPending slot bank).modify slot fun r => { r with
      hold := p.hold
      condition := .opened
      pendingDamaged := false
      holdTimer := s.params.holdTimeout }
    (.ok (byteOf r.pendingIx.index ++ byteOf r.state.code ++ halfBytes r.generation ++ source.bytes ++
      halfBytes (bankCrc bank)), s)) s

/-- OPEN_EDIT, 30h (R109). -/
def execOpenEdit (s : State) : Result := .next (Cx.command 0x30 false (· == 2) Cu.openBody s)

/-- The pending bank of a record read by CU: the state after the read, and the bank as read (R112). -/
def Cu.readPendingBank (slot : Nat) (s : State) : Bank × State :=
  let ix := (s.record slot).pendingIx
  let s := s.read .cu slot (isBankWord ix)
  (s.store.bankRead slot ix (s.record slot).pendingBank, s)

/-- WRITE_BANK's first check: the slot, the group, the number of values, the values (R111). -/
def writeFault (payload : List Byte) : Option Nat :=
  if 2047 < natAt payload 0 2 then some 0
  else match groupOf (natAt payload 2 1) with
    | none => some 2
    | some g => groupFault g 3 (payload.drop 3)

/-- The words of one group of a bank written whole (R148). -/
def State.writeGroup (slot : Nat) (g : Group) (bytes : List Byte) (s : State) : State :=
  let ix := (s.record slot).pendingIx
  let st := s.store.modify slot fun r => r.setBank r.pendingIx (r.pendingBank.withGroup g bytes)
  { s with store := st.mend slot (isGroupWord ix g) }

/-- WRITE_BANK's own part (R111). -/
def Cu.writeBody : Body := fun p payload s =>
  match writeFault payload, groupOf (natAt payload 2 1) with
  | some offset, _ => (.badField offset, s)
  | none, none => (.badField 2, s)
  | none, some g =>
    withSlot payload (fun slot s => withHold p slot (fun s =>
      let r := s.record slot
      match r.condition with
      | .frozen => (.bare .frozen, s)
      | .scheduled => (.bare .busy, s)
      | _ =>
        if !s.zonePass p r.seat then (.bare .zone, s)
        else
          let s := (s.writeGroup slot g (payload.drop 3)).modify slot fun r =>
            { r with holdTimer := s.params.holdTimeout }
          let (bank, s) := Cu.readPendingBank slot s
          (.ok (halfBytes (bankCrc bank) ++ flagByte (s.record slot).pendingDamaged), s)) s) s

/-- WRITE_BANK, 31h (R111). -/
def execWriteBank (s : State) : Result := .next (Cx.command 0x31 false (fun n => decide (3 ≤ n)) Cu.writeBody s)

/-- READ_PENDING's own part (R112).  The index of the pending bank is carried in one byte (DEDUCED, log 16). -/
def Cu.readBody : Body := fun p payload s => withSlot payload (fun slot s => withHold p slot (fun s =>
  let (bank, s) := Cu.readPendingBank slot s
  let r := s.record slot
  let position := if r.condition = .frozen then byteOf ((positionOf slot (s.port p).commitList).getD 0) else []
  (.ok (byteOf r.hold.code ++ byteOf r.condition.code ++ u16 r.holdTimer ++ position ++ flagByte r.pendingDamaged ++
    byteOf r.pendingIx.index ++ bankImage bank ++ halfBytes (bankCrc bank)), s)) s) s

/-- READ_PENDING, 32h (R112). -/
def execReadPending (s : State) : Result := .next (Cx.command 0x32 false (· == 2) Cu.readBody s)

/-- RELEASE_EDIT's own part (R113). -/
def Cu.releaseBody : Body := fun p payload s => withSlot payload (fun slot s => withHold p slot (fun s =>
  let r := s.record slot
  if r.condition = .scheduled then (.bare .busy, s)
  else (.ok (byteOf r.condition.code), Cu.discard slot s)) s) s

/-- RELEASE_EDIT, 33h (R113). -/
def execReleaseEdit (s : State) : Result := .next (Cx.command 0x33 false (· == 2) Cu.releaseBody s)

/-- A record made SCHEDULED in a port's set; its timer stops where it stands (R115, R121). -/
def Cu.schedule (p : Port) (slot : Nat) (s : State) : State :=
  (s.modify slot fun r => { r with condition := .scheduled }).onPort p fun q =>
    { q with scheduled := insertNat slot q.scheduled }

/-- The frame count of the boundary at which a commit scheduled now takes effect (R115). -/
def State.nextFrame (s : State) : FrameCount := s.ftu.frameCount + 1

/-- COMMIT_RECORD's own part (R115). -/
def Cu.commitBody : Body := fun p payload s => withSlot payload (fun slot s => withHold p slot (fun s =>
  let r := s.record slot
  match r.condition with
  | .frozen => (.bare .frozen, s)
  | .scheduled => (.bare .busy, s)
  | _ =>
    if !s.zonePass p r.seat then (.bare .zone, s)
    else
      let expected := BitVec.ofNat 16 (natAt payload 2 2)
      let (bank, s) := Cu.readPendingBank slot s
      let damaged := (s.record slot).pendingDamaged
      if damaged ∨ bankCrc bank ≠ expected then (⟨.check, halfBytes (bankCrc bank) ++ flagByte damaged⟩, s)
      else
        let s := Cu.schedule p slot (s.modify slot fun r => { r with expectedCrc := expected })
        (.ok (beBytes 4 s.nextFrame.toNat), s)) s) s

/-- COMMIT_RECORD, 34h (R115). -/
def execCommitRecord (s : State) : Result := .next (Cx.command 0x34 false (· == 4) Cu.commitBody s)

/-- GROUP_ADD's own part (R118). -/
def Cu.groupAddBody : Body := fun p payload s => withSlot payload (fun slot s => withHold p slot (fun s =>
  let r := s.record slot
  let list := (s.port p).commitList
  match positionOf slot list with
  | some n => (.ok (flagByte true ++ byteOf n), s)
  | none =>
    if r.condition = .scheduled then (.bare .busy, s)
    else if !s.zonePass p r.seat then (.bare .zone, s)
    else if 64 ≤ list.length then (.bare .listFull, s)
    else
      let expected := BitVec.ofNat 16 (natAt payload 2 2)
      let (bank, s) := Cu.readPendingBank slot s
      if (s.record slot).pendingDamaged ∨ bankCrc bank ≠ expected then (⟨.check, halfBytes (bankCrc bank)⟩, s)
      else
        let s := (s.modify slot fun r => { r with
          condition := .frozen
          expectedCrc := expected
          holdTimer := s.params.holdTimeout }).onPort p fun q => { q with commitList := q.commitList ++ [slot] }
        (.ok (byteOf list.length ++ u16 (list.length + 1)), s)) s) s

/-- GROUP_ADD, 35h (R118). -/
def execGroupAdd (s : State) : Result := .next (Cx.command 0x35 false (· == 4) Cu.groupAddBody s)

/-- A listed record returned to OPEN with its timer set again (R119, R120). -/
def Cu.reopen (slot : Nat) (s : State) : State :=
  s.modify slot fun r => { r with condition := .opened, holdTimer := s.params.holdTimeout }

/-- GROUP_REMOVE's own part (R119). -/
def Cu.groupRemoveBody : Body := fun p payload s => withSlot payload (fun slot s => withHold p slot (fun s =>
  if (s.record slot).condition = .scheduled then (.bare .busy, s)
  else match positionOf slot (s.port p).commitList with
    | none => (.ok (flagByte true), s)
    | some _ =>
      let s := (Cu.reopen slot s).onPort p fun q => { q with commitList := q.commitList.filter (· ≠ slot) }
      (.ok (u16 (s.port p).commitList.length), s)) s) s

/-- GROUP_REMOVE, 36h (R119). -/
def execGroupRemove (s : State) : Result := .next (Cx.command 0x36 false (· == 2) Cu.groupRemoveBody s)

/-- GROUP_CLEAR's own part (R120). -/
def Cu.groupClearBody : Body := fun p _ s =>
  let list := (s.port p).commitList
  (.ok (u16 list.length),
   (list.foldl (fun acc slot => Cu.reopen slot acc) s).onPort p fun q => { q with commitList := [] })

/-- GROUP_CLEAR, 37h (R120). -/
def execGroupClear (s : State) : Result := .next (Cx.command 0x37 false (· == 0) Cu.groupClearBody s)

/-- GROUP_COMMIT's own part (R121). -/
def Cu.groupCommitBody : Body := fun p _ s =>
  let list := (s.port p).commitList
  match list.find? fun slot => !s.zonePass p (s.record slot).seat with
  | some slot => (⟨.zone, u16 slot⟩, s)
  | none =>
    (.ok (u16 list.length ++ beBytes 4 s.nextFrame.toNat),
     (list.foldl (fun acc slot => Cu.schedule p slot acc) s).onPort p fun q => { q with commitList := [] })

/-- GROUP_COMMIT, 38h (R121). -/
def execGroupCommit (s : State) : Result := .next (Cx.command 0x38 false (· == 0) Cu.groupCommitBody s)

/-- The last expiry as QUERY_COMMIT carries it (R107, R126, R188). -/
def expiryItems : Option Expiry → List Byte
  | some e => beBytes 4 e.frame.toNat ++ u16 e.count ++ u16 e.lowest
  | none => beBytes 4 Config.absentExpiryFrame.toNat ++ halfBytes Config.absentExpiryCount ++ u16 0xFFFF

/-- QUERY_COMMIT's own part (R126). -/
def Cu.queryBody : Body := fun p _ s =>
  let q := s.port p
  let held := s.slotsWhere fun r => r.hold == p.hold && r.condition == .opened
  (.ok (beBytes 4 q.outcome.frame.toNat ++ u16 q.outcome.committed ++ u16 q.outcome.failed ++
    optU16 q.outcome.firstFailed ++ expiryItems q.expiry ++ u16 q.commitList.length ++ u16 q.scheduled.length ++
    u16 held.length), s)

/-- QUERY_COMMIT, 39h (R126). -/
def execQueryCommit (s : State) : Result := .next (Cx.command 0x39 false (· == 0) Cu.queryBody s)

/-! ### Cancellation (R131, R132) -/

/-- Every edit and scheduled commit of one port cancelled: the pending bank of each record it holds discarded, its commit list and
scheduled set emptied. -/
def Cu.cancelPort (p : Port) (s : State) : State :=
  (Cu.discardAll (s.slotsWhere fun r => r.hold == p.hold) s).onPort p fun q =>
    { q with commitList := [], scheduled := [] }

end Sys2Proof.Machine
end

