-- ==== Sys2Proof/Machine/BulkLoad.lean ====
section
/-! DEFINITION. Machine/BulkLoad.lean: the Bulk Load Engine (09). -/
namespace Sys2Proof.Machine

/-- Whether a load is in progress: ACTIVE or COMMITTING (R160). -/
def Load.inProgress (l : Load) : Bool := l.state == .active || l.state == .committing

/-- The loaded count: the list's length while the load runs, what it was when the load ended after that (R160). -/
def Load.loadedCount (l : Load) : Nat := if l.inProgress then l.list.length else l.count

/-- Whether the load created a record. -/
def Record.loadMade (r : Record) : Bool := r.createdByLoad

/-- The load abandoned (R167): every loaded pending bank discarded, every created record that is ABSENT retired in the order of the list,
every created record that is placed kept, the fields ended, LOAD_ABORTED added to the owner.  The number of records retired comes
with the state. -/
def Bl.abort (reason : Reason) (s : State) : Nat × State :=
  let list := s.load.list
  let s := Cu.discardAll list s
  let made := list.filter fun n => (s.record n).loadMade
  let goes := made.filter fun n => (s.record n).seat.isNone
  let stays := made.filter fun n => !(s.record n).seat.isNone
  let s := goes.foldl (fun acc n => Rt.retireEvaluated n acc) s
  let s := stays.foldl (fun acc n => acc.modify n fun r => { r with createdByLoad := false }) s
  let owner := s.load.owner
  let s := { s with load := { s.load with
    state := .aborted
    count := list.length
    list := []
    committed := 0
    failed := 0
    firstFailed := none
    reason := reason
    scheduled := [] } }
  (goes.length, match owner with
    | some p => s.addEvent p .loadAborted
    | none => s)

/-! ### The load at a boundary (R165, R166) -/

/-- The load's commits applied at the boundary after it became COMMITTING (R165). -/
def Bl.complete (s : State) : State :=
  if s.load.state = .committing then
    let owner := s.load.owner
    let list := s.load.list
    let (r, s) := Cu.applySet s.load.scheduled s
    let s := list.foldl (fun acc n => acc.modify n fun r => { r with createdByLoad := false }) s
    let s := { s with load := { s.load with
      state := .done
      committed := r.committed
      failed := r.failed
      firstFailed := r.firstFailed
      count := list.length
      list := []
      scheduled := [] } }
    match owner with
    | some p => s.addEvent p .loadDone
    | none => s
  else s

/-- The load timer at a boundary: lowered by 1 while ACTIVE (R166). -/
def Bl.age (s : State) : State :=
  if s.load.state = .active then { s with load := { s.load with timer := s.load.timer - 1 } } else s

/-- An ACTIVE load whose timer stands at 0 aborted with reason TIMEOUT (R166). -/
def Bl.timeout (s : State) : State :=
  if s.load.state = .active ∧ s.load.timer = 0 then (Bl.abort .timeout s).2 else s

/-- LOAD_TIMEOUT: the load timer stands at 0 while ACTIVE (R166).  Each boundary takes it within its own step (log 8). -/
def execLoadTimeout (s : State) : Result := .next (Bl.timeout s)

/-! ### Load commands (9.2, 9.3) -/

/-- The code of a load's owner: hold codes name PORT_A, PORT_B and none (R160, R188; log 13). -/
def ownerCode : Option Port → Nat
  | none => Hold.code .none
  | some p => p.hold.code

/-- LOAD_BEGIN's own part (R161). -/
def Bl.beginBody : Body := fun p payload s =>
  let n := natAt payload 0 2
  if 2047 < n then (.badField 0, s)
  else if s.load.inProgress then (⟨.busy, byteOf s.load.state.code ++ byteOf (ownerCode s.load.owner)⟩, s)
  else
    let timer := s.params.holdTimeout
    (.ok (u16 (n + 1) ++ u16 timer),
     { s with load := { Load.reset with state := .active, owner := some p, remaining := n, timer := timer } })

/-- LOAD_BEGIN, 50h (R161). -/
def execLoadBegin (s : State) : Result := .next (Cx.command 0x50 false (· == 2) Bl.beginBody s)

/-- A LOAD_RECORD that fails a check: the load aborted with a reason, and the command answered with a code, the reason, and what the
answer carries beside it (R162, R167). -/
def Bl.fail (reason : Reason) (code : AnswerCode) (items : List Byte) (s : State) : Reply × State :=
  (⟨code, byteOf reason.code ++ items⟩, (Bl.abort reason s).2)

/-- The bytes of a record image before its CRC field, which is the last two (R162). -/
def imageBody (payload : List Byte) : List Byte := payload.take (payload.length - 2)

/-- The bank image within a record image (R188). -/
def imageBank (payload : List Byte) : List Byte := (imageBody payload).drop 8

/-- The first field of a record image at fault: identity 0, or the bank's (R162). -/
def imageFault (payload : List Byte) : Option Nat :=
  if natAt payload 0 6 = 0 then some 0 else bankFault 8 (imageBank payload)

/-- The load's records made SCHEDULED once every record has been taken (R164). -/
def Bl.completing (s : State) : State :=
  let list := s.load.list
  let s := list.foldl (fun acc n => acc.modify n fun r => { r with condition := .scheduled }) s
  { s with load := { s.load with
    state := .committing
    scheduled := list.foldl (fun acc n => insertNat n acc) s.load.scheduled } }

/-- A record taken into the load (R163), and the load completed where it was the last expected one (R164). -/
def Bl.accept (slot : Nat) (created : Bool) (retired : Nat) (payload : List Byte) (s : State) : Reply × State :=
  let bank := bankOf (imageBank payload)
  let crc := crc16 (imageBank payload)
  let s := (s.fillPending slot bank).modify slot fun r => { r with
    hold := .load
    condition := .frozen
    pendingDamaged := false
    expectedCrc := crc }
  let s := { s with load := { s.load with
    list := s.load.list ++ [slot]
    lastSlot := some slot
    remaining := s.load.remaining - 1
    timer := s.params.holdTimeout } }
  let last := s.load.remaining = -1
  let items := u16 slot ++ flagByte created ++ halfBytes crc ++ beInt 2 s.load.remaining ++ beBytes 6 retired
  if last then (.ok (items ++ beBytes 4 s.nextFrame.toNat), Bl.completing s) else (.ok items, s)

/-- LOAD_RECORD's own part (R162): the answers that touch no load, then the six checks in order. -/
def Bl.recordBody : Body := fun p payload s =>
  if s.load.state ≠ .active then (.bare .noLoad, s)
  else if s.load.owner ≠ some p then (.bare .notPermitted, s)
  else
    let crc := crc16 (imageBody payload)
    let identity := natAt payload 0 6
    if crc ≠ BitVec.ofNat 16 (natAt payload (payload.length - 2) 2) then Bl.fail .check .check (halfBytes crc) s
    else match imageFault payload with
      | some offset => Bl.fail .check .badField (byteOf offset) s
      | none =>
        match s.lookup identity with
        | some e =>
          if (s.record e.slot).hold = .load then Bl.fail .duplicate .exists_ (u16 e.slot) s
          else
            let s := s.read .bl e.slot isStateWord
            let r := s.record e.slot
            if r.hold ≠ .none then Bl.fail .held .held (byteOf r.hold.code) s
            else if !s.zonePass p r.seat then Bl.fail .zone .zone (optU16 r.seat) s
            else Bl.accept e.slot false 0 payload s
        | none =>
          match Rt.allocateCreate identity (natAt payload 6 2) true s with
          | (none, _) => Bl.fail .poolEmpty .poolEmpty [] s
          | (some (slot, retired), s) => Bl.accept slot true retired payload s

/-- LOAD_RECORD, 51h (R162).  A payload shorter than an image with no trims does not suit. -/
def execLoadRecord (s : State) : Result := .next (Cx.command 0x51 false (fun n => decide (49 ≤ n)) Bl.recordBody s)

/-- LOAD_ABORT's own part (R169). -/
def Bl.abortBody : Body := fun p _ s =>
  if !s.load.inProgress then (.bare .noLoad, s)
  else if s.load.owner ≠ some p then (.bare .notPermitted, s)
  else if s.load.state = .committing then (.bare .busy, s)
  else
    let l := s.load
    let (retired, s) := Bl.abort .byCommand s
    (.ok (beInt 2 l.remaining ++ optU16 l.lastSlot ++ u16 l.loadedCount ++ u16 retired), s)

/-- LOAD_ABORT, 52h (R169). -/
def execLoadAbort (s : State) : Result := .next (Cx.command 0x52 false (· == 0) Bl.abortBody s)

/-- The items of LOAD_STATUS that only one state of the load carries (R170). -/
def Bl.stateItems (s : State) : List Byte :=
  match s.load.state with
  | .idle => []
  | .active => u16 s.load.timer
  | .committing => beBytes 4 s.nextFrame.toNat
  | .done => u16 s.load.committed ++ u16 s.load.failed ++ optU16 s.load.firstFailed
  | .aborted => byteOf s.load.reason.code

/-- LOAD_STATUS's own part (R170). -/
def Bl.statusBody : Body := fun _ _ s =>
  (.ok (byteOf s.load.state.code ++ byteOf (ownerCode s.load.owner) ++ beInt 2 s.load.remaining ++
    optU16 s.load.lastSlot ++ u16 s.load.loadedCount ++ Bl.stateItems s), s)

/-- LOAD_STATUS, 53h (R170). -/
def execLoadStatus (s : State) : Result := .next (Cx.command 0x53 false (· == 0) Bl.statusBody s)

end Sys2Proof.Machine
end

