-- ==== Sys2Proof/Machine/Datapath.lean ====
section
/-! DEFINITION. Machine/Datapath.lean: the Correction Datapath (04): pixels, the four stages, the dither register, the clip
counts and the snapshot latch. -/
namespace Sys2Proof.Machine

/-! ### The stages (4.3) -/

/-- S[c]: the exact signed sum of one row of the matrix (R74). -/
def rowSum (row : Prim Int) (p : Pixel) : Int :=
  row.r * (p.r.toNat : Int) + row.g * (p.g.toNat : Int) + row.b * (p.b.toNat : Int)

/-- T[c] before its clamp: S[c] rounded half up to the output scale (R74). -/
def stage1Raw (row : Prim Int) (p : Pixel) : Int := (rowSum row p + 8192) / 16384

/-- T[c] (R74). -/
def stage1 (row : Prim Int) (p : Pixel) : Nat := (clampInt 0 65535 (stage1Raw row p)).toNat

/-- Whether stage 1 clamps (R74). -/
def stage1Clips (row : Prim Int) (p : Pixel) : Bool := decide (stage1Raw row p < 0 ∨ 65535 < stage1Raw row p)

/-- Whether a pixel at column x and row y lies in a trim's band (R75). -/
def inBand (cols rows x y : Nat) (t : Trim) : Bool :=
  match t.edge with
  | .left => decide (x < t.width)
  | .right => decide (cols ≤ x + t.width)
  | .top => decide (y < t.width)
  | .bottom => decide (rows ≤ y + t.width)

/-- F taken through the band of one edge, where the trims have one and the pixel is in it (R75). -/
def trimStep (trims : List Trim) (cols rows x y : Nat) (f : Nat) (edge : Edge) : Nat :=
  match trims.find? fun t => t.edge == edge with
  | none => f
  | some t => if inBand cols rows x y t then f * t.factor / 256 else f

/-- F: the trim factor, the bands taken in the order TOP, BOTTOM, LEFT, RIGHT (R75). -/
def trimFactor (trims : List Trim) (cols rows x y : Nat) : Nat :=
  [Edge.top, Edge.bottom, Edge.left, Edge.right].foldl (trimStep trims cols rows x y) 256

/-- W[c] (R76). -/
def stage3 (t d f : Nat) : Nat := t * d * f / 2 ^ 19

/-- out[c] before its clamp (R77). -/
def stage4Raw (w d : Nat) : Nat := (w + d) / 16

/-- out[c] (R77). -/
def stage4 (w d : Nat) : Nat := min 65535 (stage4Raw w d)

/-- d[c]: bits of the dither register under TEMPORAL, 8 under OFF (R77, R78). -/
def ditherValues (temporal : Bool) (reg : BitVec 15) : Prim Nat :=
  if temporal then ⟨reg.toNat % 16, reg.toNat / 16 % 16, reg.toNat / 256 % 16⟩ else ⟨8, 8, 8⟩

/-- One step of the dither register (R78). -/
def ditherStep (reg : BitVec 15) : BitVec 15 :=
  (reg <<< 1) ||| (BitVec.ofBool (reg.getLsbD 14 ^^ reg.getLsbD 13)).zeroExtend 15

/-- One primary of a corrected pixel: the output component and the number of clamps (R74 to R77). -/
def correctOne (row : Prim Int) (p : Pixel) (gain f d : Nat) : Half × Nat :=
  let w := stage3 (stage1 row p) gain f
  (BitVec.ofNat 16 (stage4 w d),
   (if stage1Clips row p then 1 else 0) + (if 65535 < stage4Raw w d then 1 else 0))

/-- A corrected pixel: the output pixel and the number of clamps (R74 to R77). -/
def correctPixel (matrix : Prim (Prim Int)) (trims : List Trim) (gains : Prim Nat) (set : Settings) (index : Nat)
    (reg : BitVec 15) (p : Pixel) : Pixel × Nat :=
  let f := trimFactor trims set.cols set.rows (index % set.cols) (index / set.cols)
  let d := ditherValues set.temporal reg
  let r := correctOne matrix.r p gains.r f d.r
  let g := correctOne matrix.g p gains.g f d.g
  let b := correctOne matrix.b p gains.b f d.b
  (⟨r.1, g.1, b.1⟩, r.2 + g.2 + b.2)

/-! ### Bursts (4.1) -/

/-- The seats are 0..1535; a tag of 1536 or above names none (R62). -/
def seatCount : Nat := 1536

/-- Whether a burst is unseated (R62). -/
def Burst.unseated (b : Burst) : Bool := decide (seatCount ≤ b.tag.toNat)

/-- The number of pixels of a tile under the settings in force for a burst (R62, R66). -/
def Burst.tilePixels (b : Burst) : Nat := b.settings.cols * b.settings.rows

/-- The output of a burst's next pixel and the clamps it makes: dark, or corrected (R64). -/
def Burst.output (b : Burst) (reg : BitVec 15) (p : Pixel) : Pixel × Nat :=
  match b.entry with
  | .dark => (⟨0, 0, 0⟩, 0)
  | .lit _ matrix trims gains =>
    if b.unseated ∨ b.withdrawn ∨ b.tilePixels ≤ b.index then (⟨0, 0, 0⟩, 0)
    else correctPixel matrix trims gains b.settings b.index reg p

/-- A pixel of a burst: its output, the dither step, its clamps added to the running count of its seat, and the overlength count at
the first pixel beyond the tile of a seated burst (R64, R66, R78, R80). -/
def Cd.pixelOf (b : Burst) (start : Bool) (p : Pixel) (s : State) : State :=
  let out := b.output s.cd.dither p
  let seat := b.tag.toNat
  let running := if out.2 = 0 then s.cd.running
    else Table.set 0 seat (saturate (Table.get 0 s.cd.running seat) out.2) s.cd.running
  let s' := { s with cd := { s.cd with
    burst := some { b with index := b.index + 1 }
    dither := ditherStep s.cd.dither
    running := running
    output := some ⟨start, b.tag, out.1⟩ } }
  if !b.unseated ∧ b.index = b.tilePixels then s'.count .overlengthBursts else s'

/-- The dither register loaded with a seed: 0 is loaded as 1 (R79). -/
def seedValue (seed : Nat) : BitVec 15 := if seed = 0 then 1 else BitVec.ofNat 15 seed

/-- PIXEL_BURST: a start pixel.  An armed seed load that a boundary has made due fills the register first (R79); the burst takes its
seat's entry, the frame settings and the withdrawal as they stand (R63), and is counted where it is unseated (R65). -/
def Cd.startBurst (tag : BitVec 11) (p : Pixel) (s : State) : State :=
  let cd := { s.cd with
    dither := s.cd.seedLoad.elim s.cd.dither seedValue
    seedLoad := none }
  let b : Burst := ⟨tag, Table.get .dark cd.snapshot tag.toNat, cd.settings, cd.withdrawn, 0⟩
  let s' := { s with cd := cd }
  Cd.pixelOf b true p (if b.unseated then s'.count .burstsUnseated else s')

/-- PIXEL_BURST (R63). -/
def execPixelBurst (tag : BitVec 11) (p : Pixel) (s : State) : Result := .next (Cd.startBurst tag p s)

/-- A pixel that is not a start.  Before any start pixel it belongs to no burst: the register steps (R78) and a pixel is output
(R64) whose value and tag the spec does not state (log 9). -/
def Cd.laterPixel (p : Pixel) (s : State) : State :=
  match s.cd.burst with
  | some b => Cd.pixelOf b false p s
  | none => { s with
      cd := { s.cd with
        dither := ditherStep s.cd.dither
        output := some ⟨false, Config.straySeat s.draws, Config.strayPixel s.draws⟩ }
      draws := s.draws + 1 }

/-- PIXEL (R80). -/
def execPixel (p : Pixel) (s : State) : Result := .next (Cd.laterPixel p s)

/-! ### The snapshot latch (4.2) -/

/-- The words of a placed record read by the latch, one after another: the state word; for a record then LIVE, the matrix and trim
words of its active bank; the applied gain words (R71).  They are three reads, and what one finds has its consequence before the
next (log 11). -/
def Cd.readRecord (slot : Nat) (s : State) : State :=
  let s := s.read .cd slot isStateWord
  let r := s.record slot
  let s := if r.state = .live then s.read .cd slot (isLatchBankWord r.active) else s
  s.read .cd slot isAppliedWord

/-- The snapshot entry of a bank that serves in place of an active one (R68). -/
def fallbackEntry (source : BankSource × Bank) (gains : Prim Nat) : SnapEntry :=
  .lit (match source.1 with
    | .unity => .unity
    | _ => .batch) source.2.matrix source.2.trims gains

/-- The entry of one seat, resolved from the Seat Table and, for a PLACED seat, from the record as it stands (R68, R70). -/
def Cd.resolve (s : State) (e : Seat) : SnapEntry :=
  match e.kind with
  | .vacant => .dark
  | .placed slot =>
    let r := s.record slot
    if r.state = .live then .lit .record r.activeBank.matrix r.activeBank.trims r.applied
    else fallbackEntry (batchBank s.batches s.params.fallbackGain r.batch) r.applied
  | .unrecorded _ batch =>
    let source := batchBank s.batches s.params.fallbackGain batch
    fallbackEntry source (Prim.map (min s.params.headroomLimit) source.2.gains)

/-- One seat latched: its record's words read, then the entry. -/
def Cd.latchSeat (e : Seat) (s : State) : SnapEntry × State :=
  let s := match e.kind with
    | .placed slot => Cd.readRecord slot s
    | _ => s
  (Cd.resolve s e, s)

/-- Every seat latched, in ascending order. -/
def Cd.latchSeats : Table Seat → Table SnapEntry → State → Table SnapEntry × State
  | [], acc, s => (acc, s)
  | (n, e) :: t, acc, s =>
    let (entry, s) := Cd.latchSeat e s
    Cd.latchSeats t (Table.set .dark n entry acc) s

/-- The latch of a boundary (R68, R72, R73, R79, R80): a new snapshot, the frame settings from the parameters, the withdrawal cleared,
an armed seed load made due, and the running clip counts made readable. -/
def Cd.latch (s : State) : State :=
  let (snapshot, s) := Cd.latchSeats s.seats [] s
  { s with cd := { s.cd with
    snapshot := snapshot
    settings := ⟨s.params.tileCols, s.params.tileRows, s.params.ditherTemporal⟩
    withdrawn := false
    seedLoad := if s.cd.seedArmed then some s.params.ditherSeed else s.cd.seedLoad
    seedArmed := false
    readable := s.cd.running
    running := [] } }

/-- WALL_RESET's part: the snapshot withdrawn until the next latch (R72). -/
def Cd.withdraw (s : State) : State := { s with cd := { s.cd with withdrawn := true } }

end Sys2Proof.Machine
end

