-- ==== Sys2Proof/Machine/Link.lean ====
section
/-! DEFINITION. Machine/Link.lean: the Tile Return Link's intake (03): the checks, the queue and the sequence check. -/
namespace Sys2Proof.Machine

/-- The last sequence recorded for a distribution port: 255 after power-on (R57, R58). -/
def Trl.last (t : Trl) (distPort : Nat) : Byte := Table.get 255#8 t.lastSeq distPort

/-- A good report that joins the intake queue, in one step with its sequence check (R53, R57). -/
def Trl.join (r : Report) (s : State) : State :=
  let gap := r.sequence != s.trl.last r.distPort + 1
  let s := { s with trl := { s.trl with
      queue := s.trl.queue ++ [{ r with gap := gap }]
      lastSeq := Table.set 255#8 r.distPort r.sequence s.trl.lastSeq } }
  if gap then (s.count .reportGaps).addBoth .reportGap else s

/-- The arrival of a frame: malformed, dropped at a full queue, or joined (R52, R53, R54). -/
def Trl.arrive (frame : List Byte × Bool) (s : State) : State :=
  match reportOf frame with
  | none => s.count .reportsMalformed
  | some r =>
    if s.trl.queue.length < 64 then Trl.join r s
    else (s.count .reportsDropped).addBoth .reportOverflow

/-- A run of samples of TRL_DATA: the line moves on, and each frame that ends arrives, in order (R51, R52). -/
def Trl.receive (samples : List Bool) (s : State) : State :=
  let r := s.trl.line.run samples
  r.1.foldl (fun acc frame => Trl.arrive frame acc) { s with trl := { s.trl with line := r.2 } }

/-- REPORT_ARRIVAL: samples of TRL_DATA, at whose ends of frames reports arrive (R51, R52).  Samples in which no frame ends bring no
arrival. -/
def execReportArrival (samples : List Bool) (s : State) : Result := .next (Trl.receive samples s)

/-- WALL_RESET's part: the intake queue emptied and every last sequence 255; the line goes on (R60). -/
def Trl.clear (s : State) : State := { s with trl := { s.trl with queue := [], lastSeq := [] } }

end Sys2Proof.Machine
end

