-- ==== Sys2Proof/Machine/Notify.lean ====
section
/-! DEFINITION. Machine/Notify.lean: the commands of the Notification Unit (11). -/
namespace Sys2Proof.Machine

/-- A set of event kinds as a 2-byte mask; bit 15 reads 0 (R192). -/
def maskBytes (m : BitVec 15) : List Byte := u16 m.toNat

/-- The kinds named in a 2-byte mask; bit 15 is ignored (R193, R194). -/
def maskOf (payload : List Byte) : BitVec 15 := BitVec.ofNat 15 (natAt payload 0 2)

/-- READ_EVENTS's own part (R192). -/
def Nu.readBody : Body := fun p _ s =>
  let e := s.store.nu.sets p
  (.ok (maskBytes e.pending ++ maskBytes e.enabled ++ flagByte (s.notify p) ++ flagByte s.poolLow ++
    flagByte s.ftu.refFallback), s)

/-- READ_EVENTS, 60h (R192). -/
def execReadEvents (s : State) : Result := .next (Cx.command 0x60 false (· == 0) Nu.readBody s)

/-- The kinds a mask names removed from a pending set (R193). -/
def EventSets.clear (mask : BitVec 15) (e : EventSets) : EventSets := { e with pending := e.pending &&& ~~~mask }

/-- An enable set replaced (R194). -/
def EventSets.enable (mask : BitVec 15) (e : EventSets) : EventSets := { e with enabled := mask }

/-- One port's sets changed. -/
def Nu.onSets (p : Port) (f : EventSets → EventSets) (n : Nu) : Nu := n.setSets p (f (n.sets p))

/-- CLEAR_EVENTS's own part (R193). -/
def Nu.clearBody : Body := fun p payload s =>
  let s := s.onNu (Nu.onSets p (EventSets.clear (maskOf payload)))
  (.ok (maskBytes (s.store.nu.sets p).pending), s)

/-- CLEAR_EVENTS, 61h (R193). -/
def execClearEvents (s : State) : Result := .next (Cx.command 0x61 false (· == 2) Nu.clearBody s)

/-- SET_EVENT_ENABLES's own part (R194). -/
def Nu.enableBody : Body := fun p payload s =>
  let s := s.onNu (Nu.onSets p (EventSets.enable (maskOf payload)))
  (.ok (maskBytes (s.store.nu.sets p).enabled ++ flagByte (s.notify p)), s)

/-- SET_EVENT_ENABLES, 62h (R194). -/
def execSetEventEnables (s : State) : Result := .next (Cx.command 0x62 false (· == 2) Nu.enableBody s)

/-- The thirteen counters as READ_COUNTERS carries them (R196). -/
def Counters.bytes (c : Counters) : List Byte := c.values.flatMap u16

/-- READ_COUNTERS's own part (R196). -/
def Nu.countersBody : Body := fun _ _ s => (.ok s.store.nu.counters.bytes, s)

/-- READ_COUNTERS, 63h (R196). -/
def execReadCounters (s : State) : Result := .next (Cx.command 0x63 false (· == 0) Nu.countersBody s)

/-- The counters cleared, and the last uncorrectable finding none (R158, R197). -/
def Store.clearCounters (st : Store) : Store :=
  { st with finding := none, nu := { st.nu with counters := Counters.zero } }

/-- CLEAR_COUNTERS's own part (R197). -/
def Nu.clearCountersBody : Body := fun _ _ s =>
  (.ok s.store.nu.counters.bytes, { s with store := s.store.clearCounters })

/-- CLEAR_COUNTERS, 64h (R197). -/
def execClearCounters (s : State) : Result := .next (Cx.command 0x64 true (· == 0) Nu.clearCountersBody s)

end Sys2Proof.Machine
end

