-- ==== Sys2Proof/Machine/Boundary.lean ====
section
/-! DEFINITION. Machine/Boundary.lean: the work of one frame boundary (R139), block by block, and the Scrubber (8.5). -/
namespace Sys2Proof.Machine

/-! ### The Scrubber (R156) -/

/-- One slot scrubbed: every array word read, the cursor advanced from 2047 to 0 (R156). -/
def Sc.scrubOne (s : State) : State :=
  let s := s.read .sc s.cursor fun _ => true
  { s with cursor := (s.cursor + 1) % 2048 }

/-- SCRUB_RATE slots scrubbed (R156). -/
def Sc.scrub (s : State) : State := Sc.scrubOne^[s.params.scrubRate] s

/-! ### The stages of a boundary -/

/-- The pieces of a boundary's work whose order the manual leaves open in part. -/
inductive Stage where
  | commit
  | slew
  | scrub
  | latch
  deriving DecidableEq, Repr

/-- CU's and BL's boundary work: the three scheduled sets applied with their outcomes, hold timers aged and holds expired, a committing
load completed, the load timer aged and an ACTIVE load timed out (R107, R122 to R125, R165, R166). -/
def Stage.commitWork (s : State) : State :=
  let s := Cu.applyPort .b (Cu.applyPort .a s)
  let s := Bl.complete s
  let s := Cu.expire (Cu.ageHolds s)
  Bl.timeout (Bl.age s)

/-- One stage run. -/
def Stage.run : Stage → State → State
  | .commit => Stage.commitWork
  | .slew => Dt.slew
  | .scrub => Sc.scrub
  | .latch => Cd.latch

/-- The eight legal orders: commits and slew in either order and both before the latch (R69, R94), the scrub anywhere (R157). -/
def stageOrder (n : Nat) : List Stage :=
  match n with
  | 0 => [.commit, .slew, .latch, .scrub]
  | 1 => [.commit, .slew, .scrub, .latch]
  | 2 => [.commit, .scrub, .slew, .latch]
  | 3 => [.scrub, .commit, .slew, .latch]
  | 4 => [.slew, .commit, .latch, .scrub]
  | 5 => [.slew, .commit, .scrub, .latch]
  | 6 => [.slew, .scrub, .commit, .latch]
  | _ => [.scrub, .slew, .commit, .latch]

/-- The order of a boundary's stages.  While no stored word is damaged every order leads to the same state, and the first is taken;
otherwise the order is a free value (log 7). -/
def State.boundaryOrder (s : State) : List Stage :=
  if s.store.damage.isEmpty then stageOrder 0 else stageOrder (Config.boundaryOrder s.draws).val

/-- A boundary's work in every block (R139): PU ages the seats, then the stages in their order. -/
def boundaryWork (s : State) : State :=
  let order := s.boundaryOrder
  order.foldl (fun acc stage => stage.run acc) (Pu.staleCheck (Pu.age { s with draws := s.draws + 1 }))

/-- A boundary produced at the present moment (R139): the frame count rises by 1, wrapping, the next expiry is set afresh (R137), and every
block takes the announcement. -/
def boundary (s : State) : State :=
  boundaryWork { s with ftu := { s.ftu with
    lastBoundary := s.ftu.now
    nextExpiry := s.ftu.now + s.params.nominalPeriod
    frameCount := s.ftu.frameCount + 1 } }

end Sys2Proof.Machine
end

