-- ==== Sys2Proof/Machine/Timing.lean ====
section
/-! DEFINITION. Machine/Timing.lean: the Frame Timing Unit (07): the reference monitor, the internal generator, fallback, switching,
and the passing of time. -/
namespace Sys2Proof.Machine

/-! ### Durations (R133) -/

/-- w: the window half-width. -/
def Params.window (p : Params) : Nat := p.nominalPeriod / 16

/-- h: the half period. -/
def Params.halfPeriod (p : Params) : Nat := p.nominalPeriod / 2

/-- The loss delay. -/
def Params.lossDelay (p : Params) : Nat := 3 * p.nominalPeriod / 2

/-- The FTU changed. -/
def State.onFtu (f : Ftu → Ftu) (s : State) : State := { s with ftu := f s.ftu }

/-! ### Fallback and release (R140, R143) -/

/-- The next boundary placed at the generator's next expiry: produced at once where that has passed (R140, R143).  DESIGN CHOICE: an expiry at
the present moment counts as passed (log 28). -/
def Ftu.boundaryIfPassed (s : State) : State := if s.ftu.nextExpiry ≤ s.ftu.now then boundary s else s

/-- A fallback: the current source becomes INTERNAL, a pending request for INTERNAL is complete, and the next boundary falls at the next
expiry or at once (R140). -/
def Ftu.fallback (s : State) : State :=
  let s' := s.onFtu fun f => { f with current := .internal, switchPending := f.requested == .external }
  Ftu.boundaryIfPassed (s'.refOnset s.ftu.refFallback)

/-- A held expiry released (R143). -/
def Ftu.release (s : State) : State := Ftu.boundaryIfPassed (s.onFtu fun f => { f with expiryHeld := false })

/-- What follows when the monitor has left LOCKED (R140, R143). -/
def Ftu.unlocked (s : State) : State :=
  if s.ftu.current = .external then Ftu.fallback s
  else if s.ftu.expiryHeld then Ftu.release s
  else s

/-! ### The reference monitor (R134 to R136) -/

/-- Whether a pulse at the present moment is in window (R134). -/
def State.inWindow (s : State) : Bool :=
  match s.ftu.lastPulse with
  | none => false
  | some last =>
    let t := s.ftu.now - last
    decide (s.params.nominalPeriod - s.params.window ≤ t ∧ t ≤ s.params.nominalPeriod + s.params.window)

/-- The monitor after a pulse (R135). -/
def Monitor.pulse (inWindow : Bool) : Monitor → Monitor
  | .noReference => .acquiring 1
  | .acquiring n => if inWindow then (if n < 7 then .acquiring (n + 1) else .locked) else .acquiring 1
  | .locked => if inWindow then .locked else .acquiring 1

/-- A pulse recorded: the intervals, the last pulse, the monitor (R134, R135). -/
def Ftu.record (inWindow : Bool) (f : Ftu) : Ftu :=
  { f with
    older := f.newer
    newer := f.lastPulse.map fun last => min 65535 (f.now - last)
    lastPulse := some f.now
    monitor := f.monitor.pulse inWindow }

/-- A switch to external timing completed by the pulse, which is a boundary (R142). -/
def Ftu.switchExternal (s : State) : State :=
  boundary (s.onFtu fun f => { f with current := .external, switchPending := false, expiryHeld := false })

/-- Whether an in-window pulse with the monitor LOCKED is a boundary, completes a switch, or holds an expiry (R138, R142, R143). -/
def Ftu.lockedPulse (s : State) : State :=
  match s.ftu.current, s.ftu.requested with
  | .external, .external => boundary s
  | .external, .internal => s
  | .internal, .external =>
    if s.params.halfPeriod ≤ s.ftu.now - s.ftu.lastBoundary then Ftu.switchExternal s
    else s.onFtu fun f => { f with expiryHeld := true }
  | .internal, .internal => s

/-- A FRAME_REF pulse at the present moment (R134, R135, R138). -/
def Ftu.pulse (s : State) : State :=
  let inWindow := s.inWindow
  let wasLocked := s.ftu.monitor == .locked
  let s := s.onFtu (Ftu.record inWindow)
  let locked := s.ftu.monitor == .locked
  if wasLocked && !locked then Ftu.unlocked s
  else if inWindow && locked then Ftu.lockedPulse s
  else s

/-- The reference declared lost at the present moment (R136). -/
def Ftu.lose (s : State) : State :=
  Ftu.unlocked (s.onFtu fun f => { f with monitor := .noReference, lastPulse := none })

/-- The internal generator's expiry arriving at the present moment (R137, R145). -/
def Ftu.expire (s : State) : State :=
  match s.ftu.current, s.ftu.requested with
  | .internal, _ => if s.ftu.expiryHeld then s else boundary s
  | .external, .internal => boundary (s.onFtu fun f => { f with current := .internal, switchPending := false })
  | .external, .external => s

/-! ### The passing of time -/

/-- The moment the loss would be declared, while the monitor has a loss deadline (R136). -/
def State.lossDeadline (s : State) : Option Nat :=
  if s.ftu.monitor = .noReference then none else s.ftu.lastPulse.map (· + s.params.lossDelay)

/-- The moment of the next expiry, while it has an effect (R137). -/
def State.expiryDeadline (s : State) : Option Nat :=
  match s.ftu.current, s.ftu.requested with
  | .internal, _ => if s.ftu.expiryHeld then none else some s.ftu.nextExpiry
  | .external, .internal => some s.ftu.nextExpiry
  | .external, .external => none

/-- The clock moved forward to a moment; it never moves back. -/
def State.moveTo (t : Nat) (s : State) : State := s.onFtu fun f => { f with now := max f.now t }

/-- The generator's next expiry, where it comes before a moment `t` and not after the loss deadline, taken. -/
def Ftu.nextEvent (t : Nat) (s : State) : Option State :=
  match s.expiryDeadline, s.lossDeadline with
  | some e, some l =>
    if e < t ∧ e ≤ l then some (Ftu.expire (s.moveTo e))
    else if l < t then some (Ftu.lose (s.moveTo l))
    else none
  | some e, none => if e < t then some (Ftu.expire (s.moveTo e)) else none
  | none, some l => if l < t then some (Ftu.lose (s.moveTo l)) else none
  | none, none => none

/-- Every expiry and loss that falls before a moment taken in order of time, at most `fuel` of them. -/
def Ftu.runEvents : Nat → Nat → State → State
  | 0, _, s => s
  | fuel + 1, t, s =>
    match Ftu.nextEvent t s with
    | none => s
    | some s' => Ftu.runEvents fuel t s'

/-- The clock moved forward to a moment: the expiries and the loss that fall before it are taken first, for the generator and the
loss deadline wait for no command (R136, R137; log 4).  Expiries lie at least 4000 us apart (R133), which bounds their number. -/
def State.advance (t : Nat) (s : State) : State :=
  (Ftu.runEvents ((t - s.ftu.now) / 4000 + 3) t s).moveTo t

/-- FRAME_REF_PULSE: a rising edge `elapsed` us after the moment the clock stands at (R134). -/
def execFrameRefPulse (elapsed : Nat) (s : State) : Result :=
  .next (Ftu.pulse (s.advance (s.ftu.now + elapsed)))

/-- INTERNAL_EXPIRY: the moment of the generator's next expiry arrives (R137).  Where a loss that falls before it has set the next expiry
afresh, that expiry has gone. -/
def Ftu.reachExpiry (s : State) : State :=
  let e := s.ftu.nextExpiry
  let s' := s.advance e
  if s'.ftu.nextExpiry = e then Ftu.expire s' else s'

/-- INTERNAL_EXPIRY (R137). -/
def execInternalExpiry (s : State) : Result := .next (Ftu.reachExpiry s)

/-- REFERENCE_LOSS: the loss delay passes since the last pulse (R136).  With the monitor at NO_REFERENCE there is no loss deadline and
nothing changes (log 1). -/
def Ftu.reachLoss (s : State) : State :=
  match s.lossDeadline with
  | none => s
  | some l =>
    let s' := s.advance l
    if s'.lossDeadline = some l then Ftu.lose s' else s'

/-- REFERENCE_LOSS (R136). -/
def execReferenceLoss (s : State) : Result := .next (Ftu.reachLoss s)

/-- A tick of the FTU's clock: 1 us passes (R133; log 4). -/
def State.tick (s : State) : State := s.advance (s.ftu.now + 1)

/-- What an empty queue brings: a bit flip that waits lands in the record store (log 5), and 1 us passes (log 4). -/
def State.idle (s : State) : State :=
  match s.upsets with
  | [] => s.tick
  | u :: rest => { s with store := s.store.flip u, upsets := rest }.tick

/-! ### Choosing the source (R144, R145) -/

/-- SELECT_SOURCE carried out (R144).  DESIGN CHOICE: where INTERNAL is chosen in the very us of the next expiry, that expiry counts as passed, so
the boundary falls within the command (R145; log 28). -/
def Ftu.select (source : Source) (s : State) : State :=
  let before := s.ftu.refFallback
  match source, s.ftu.current with
  | .external, .external => s.onFtu fun f => { f with requested := .external, switchPending := false }
  | .external, .internal =>
    (s.onFtu fun f => { f with requested := .external, switchPending := true }).refOnset before
  | .internal, .external =>
    if s.ftu.nextExpiry ≤ s.ftu.now then
      boundary (s.onFtu fun f => { f with requested := .internal, current := .internal, switchPending := false })
    else s.onFtu fun f => { f with requested := .internal, switchPending := true }
  | .internal, .internal =>
    let s' := s.onFtu fun f => { f with requested := .internal, switchPending := false }
    if s.ftu.expiryHeld then Ftu.release s' else s'

/-- The source a code names (R188). -/
def sourceOf : Nat → Option Source
  | 0 => some .external
  | 1 => some .internal
  | _ => none

/-- SELECT_SOURCE's own part (R144). -/
def Ftu.selectBody : Body := fun _ payload s =>
  match sourceOf (natAt payload 0 1) with
  | none => (.badField 0, s)
  | some source =>
    let s := Ftu.select source s
    (.ok (byteOf s.ftu.current.code ++ byteOf s.ftu.requested.code ++ flagByte s.ftu.switchPending ++
      s.ftu.monitor.bytes ++ beBytes 4 s.ftu.frameCount.toNat), s)

/-- SELECT_SOURCE, 40h (R144). -/
def execSelectSource (s : State) : Result := .next (Cx.command 0x40 true (· == 1) Ftu.selectBody s)

/-- A write of NOMINAL_PERIOD taken by the FTU (R146): the next expiry set afresh, with a boundary at once on internal timing where it has
passed; then the loss declared at once where its deadline has passed.  An expiry at the moment of the write has passed by R146's own words; that a
loss deadline at that moment has is DESIGN CHOICE (log 28). -/
def Ftu.writePeriod (value : Nat) (s : State) : State :=
  let s := { s with params := { s.params with nominalPeriod := value } }
  let s := s.onFtu fun f => { f with nextExpiry := f.lastBoundary + value }
  let s := if s.ftu.current = .internal ∧ s.ftu.nextExpiry ≤ s.ftu.now then boundary s else s
  match s.lossDeadline with
  | some l => if l ≤ s.ftu.now then Ftu.lose s else s
  | none => s

/-- A duration in us in two bytes; one above 65535 does not fit, and the bytes it then takes are a free value (log 10). -/
def durationBytes (us : Nat) : List Byte := if us ≤ 65535 then u16 us else halfBytes (Config.wideDuration us)

/-- READ_TIMING's own part (R147).  NOMINAL_PERIOD is carried as a parameter value, in 4 bytes (DEDUCED, log 16). -/
def Ftu.readBody : Body := fun _ _ s =>
  let f := s.ftu
  (.ok (byteOf f.current.code ++ byteOf f.requested.code ++ flagByte f.switchPending ++ flagByte f.expiryHeld ++
    flagByte f.refFallback ++ f.monitor.bytes ++ beBytes 4 f.frameCount.toNat ++ beBytes 4 s.params.nominalPeriod ++
    durationBytes s.params.window ++ durationBytes s.params.halfPeriod ++ durationBytes s.params.lossDelay ++
    u16 (min 65535 (f.now - f.lastBoundary)) ++ optU16 (f.lastPulse.map fun last => min 65535 (f.now - last)) ++
    optU16 f.newer ++ optU16 f.older), s)

/-- READ_TIMING, 41h (R147). -/
def execReadTiming (s : State) : Result := .next (Cx.command 0x41 false (· == 0) Ftu.readBody s)

/-! ### READ_INTEGRITY (R159) -/

/-- The last uncorrectable finding as READ_INTEGRITY carries it (R158, R159, R188). -/
def findingItems : Option Finding → List Byte
  | some f => beBytes 4 f.frame.toNat ++ u16 f.slot ++ byteOf f.location.code ++ byteOf f.reader.code
  | none => beBytes 4 Config.absentFindingFrame.toNat ++ u16 0xFFFF ++
      [Config.absentFindingLocation, Config.absentFindingReader]

/-- READ_INTEGRITY's own part (R159).  The number of boundaries of a full pass has two bytes, FFFFh for none (log 16). -/
def Sc.readBody : Body := fun _ _ s =>
  let rate := s.params.scrubRate
  (.ok (u16 s.store.nu.counters.sec ++ u16 s.store.nu.counters.ded ++ findingItems s.store.finding ++ u16 s.cursor ++
    beBytes 4 rate ++ optU16 (if rate = 0 then none else some ((2048 + rate - 1) / rate))), s)

/-- READ_INTEGRITY, 4Ch (R159). -/
def execReadIntegrity (s : State) : Result := .next (Cx.command 0x4C false (· == 0) Sc.readBody s)

end Sys2Proof.Machine
end

