-- ==== Sys2Proof/Machine/Parameters.lean ====
section
/-! DEFINITION. Machine/Parameters.lean: the Parameter Set (10.4), and what each write brings about at the block that reads the
parameter. -/
namespace Sys2Proof.Machine

/-- The sixteen parameters (R182). -/
inductive Param where
  | headroomLimit
  | slewStep
  | fallbackGain
  | ditherMode
  | ditherSeed
  | tileCols
  | tileRows
  | autoCreate
  | autoReclaim
  | poolLowThreshold
  | statusTimeout
  | holdTimeout
  | reportFence
  | nominalPeriod
  | scrubRate
  | driftGap
  deriving DecidableEq, Repr

/-- The parameter a number names (R182). -/
def paramOf : Nat → Option Param
  | 0x01 => some .headroomLimit
  | 0x02 => some .slewStep
  | 0x03 => some .fallbackGain
  | 0x04 => some .ditherMode
  | 0x05 => some .ditherSeed
  | 0x06 => some .tileCols
  | 0x07 => some .tileRows
  | 0x08 => some .autoCreate
  | 0x09 => some .autoReclaim
  | 0x0A => some .poolLowThreshold
  | 0x0B => some .statusTimeout
  | 0x0C => some .holdTimeout
  | 0x0D => some .reportFence
  | 0x0E => some .nominalPeriod
  | 0x0F => some .scrubRate
  | 0x10 => some .driftGap
  | _ => none

/-- The range of a parameter (R182). -/
def Param.range : Param → Nat × Nat
  | .headroomLimit => (16384, 65535)
  | .slewStep => (1, 4096)
  | .fallbackGain => (0, 32768)
  | .ditherMode => (0, 1)
  | .ditherSeed => (0, 0x7FFF)
  | .tileCols => (8, 256)
  | .tileRows => (8, 256)
  | .autoCreate => (0, 1)
  | .autoReclaim => (0, 1)
  | .poolLowThreshold => (0, 2047)
  | .statusTimeout => (0, 65535)
  | .holdTimeout => (60, 65535)
  | .reportFence => (8, 63)
  | .nominalPeriod => (4000, 50000)
  | .scrubRate => (0, 16)
  | .driftGap => (0, 255)

/-- Whether a parameter takes only the values its row lists (R183). -/
def Param.enumerated : Param → Bool
  | .ditherMode => true
  | .autoCreate => true
  | .autoReclaim => true
  | _ => false

/-- The value taken for a value given: clamped to the range (R183). -/
def Param.taken (q : Param) (value : Nat) : Nat := clampNat q.range.1 q.range.2 value

/-- A flag as a parameter value (R182). -/
def flagValue (b : Bool) : Nat := if b then 1 else 0

/-- The stored value of a parameter (R184). -/
def Params.value (ps : Params) : Param → Nat
  | .headroomLimit => ps.headroomLimit
  | .slewStep => ps.slewStep
  | .fallbackGain => ps.fallbackGain
  | .ditherMode => flagValue ps.ditherTemporal
  | .ditherSeed => ps.ditherSeed
  | .tileCols => ps.tileCols
  | .tileRows => ps.tileRows
  | .autoCreate => flagValue ps.autoCreate
  | .autoReclaim => flagValue ps.autoReclaim
  | .poolLowThreshold => ps.poolLowThreshold
  | .statusTimeout => ps.statusTimeout
  | .holdTimeout => ps.holdTimeout
  | .reportFence => ps.reportFence
  | .nominalPeriod => ps.nominalPeriod
  | .scrubRate => ps.scrubRate
  | .driftGap => ps.driftGap

/-- The Parameter Set with a value stored (R183). -/
def Params.store (q : Param) (v : Nat) (ps : Params) : Params :=
  match q with
  | .headroomLimit => { ps with headroomLimit := v }
  | .slewStep => { ps with slewStep := v }
  | .fallbackGain => { ps with fallbackGain := v }
  | .ditherMode => { ps with ditherTemporal := v == 1 }
  | .ditherSeed => { ps with ditherSeed := v }
  | .tileCols => { ps with tileCols := v }
  | .tileRows => { ps with tileRows := v }
  | .autoCreate => { ps with autoCreate := v == 1 }
  | .autoReclaim => { ps with autoReclaim := v == 1 }
  | .poolLowThreshold => { ps with poolLowThreshold := v }
  | .statusTimeout => { ps with statusTimeout := v }
  | .holdTimeout => { ps with holdTimeout := v }
  | .reportFence => { ps with reportFence := v }
  | .nominalPeriod => { ps with nominalPeriod := v }
  | .scrubRate => { ps with scrubRate := v }
  | .driftGap => { ps with driftGap := v }

/-- The applied gains of a record clamped to L (R95). -/
def Record.clamped (limit : Nat) (r : Record) : Record := { r with applied := Prim.map (min limit) r.applied }

/-- The applied gains of a record clamped to L: a write of some fields of the applied gain words, which are read first (R95, R148; log
11). -/
def Dt.clampApplied (cx : Ctx) (slot : Nat) (st : Store) : Store :=
  (Rt.read cx .dt slot isAppliedWord st).modify slot (Record.clamped cx.limit)

/-- A write of HEADROOM_LIMIT: a lower value clamps every applied gain at once; every in-use record is recomputed (R95).  Every clamp
comes before the first recompute (DEDUCED, log 26). -/
def Dt.writeLimit (v : Nat) (s : State) : State :=
  let lower := v < s.params.headroomLimit
  let s := { s with params := { s.params with headroomLimit := v } }
  let s := if lower then s.onStore fun cx st => st.eachInUse (Dt.clampApplied cx) else s
  Dt.recomputeWhere (fun _ => true) s

/-- Whether the bank in use of a record is the unity bank (R9). -/
def Ctx.usesUnity (cx : Ctx) (r : Record) : Bool := (cx.bankInUse r).1 == .unity

/-- A write of FALLBACK_GAIN: every in-use record whose bank in use is the unity bank is recomputed (R8, R97). -/
def Dt.writeFallback (v : Nat) (s : State) : State :=
  let s := { s with params := { s.params with fallbackGain := v } }
  Dt.recomputeWhere s.ctx.usesUnity s

/-- A value stored and handed to the block that reads the parameter (R182, R183). -/
def Cx.writeParam (q : Param) (v : Nat) (s : State) : State :=
  let stored := { s with params := s.params.store q v }
  match q with
  | .headroomLimit => Dt.writeLimit v s
  | .fallbackGain => Dt.writeFallback v s
  | .ditherSeed => { stored with cd := { s.cd with seedArmed := true } }
  | .poolLowThreshold => stored.poolOnset s.poolLow
  | .nominalPeriod => Ftu.writePeriod v s
  | .driftGap => { stored with driftCounter := 0 }
  | _ => stored

/-- SET_PARAMETER's own part (R183). -/
def Cx.setParameterBody : Body := fun _ payload s =>
  let number := natAt payload 0 1
  let value := natAt payload 1 4
  match paramOf number with
  | none => (.badField 0, s)
  | some q =>
    if q.enumerated && decide (q.taken value ≠ value) then (.badField 1, s)
    else if q == .nominalPeriod && s.ftu.switchPending then (.bare .busy, s)
    else
      let v := q.taken value
      (⟨if v = value then .ok else .clamped, byteOf number ++ beBytes 4 v⟩, Cx.writeParam q v s)

/-- SET_PARAMETER, 01h (R183). -/
def execSetParameter (s : State) : Result := .next (Cx.command 0x01 true (· == 5) Cx.setParameterBody s)

/-- READ_PARAMETER's own part (R184). -/
def Cx.readParameterBody : Body := fun _ payload s =>
  match paramOf (natAt payload 0 1) with
  | none => (.badField 0, s)
  | some q => (.ok (beBytes 4 (s.params.value q)), s)

/-- READ_PARAMETER, 02h (R184). -/
def execReadParameter (s : State) : Result := .next (Cx.command 0x02 false (· == 1) Cx.readParameterBody s)

end Sys2Proof.Machine
end

