-- ==== Sys2Proof/Machine/Ports.lean ====
section
/-! DEFINITION. Machine/Ports.lean: the command ports (10.1), the attach and the detach of Port B, the write zones (10.3), and
identity and wall reset (10.5). -/
namespace Sys2Proof.Machine

/-! ### Transactions (R173 to R175) -/

/-- A message discarded at a port: MESSAGE_DISCARDED and the port's counter (R174). -/
def Port.discard (p : Port) (s : State) : State :=
  (s.addEvent p .messageDiscarded).count (match p with
    | .a => .discardedA
    | .b => .discardedB)

/-- A message that arrives at a port: framed, and joined to the queue or discarded (R174). -/
def Port.receive (p : Port) (bytes : List Byte) (s : State) : State :=
  match messageOf bytes with
  | none => p.discard s
  | some m =>
    if (s.port p).messages.length < 4 then s.onPort p fun q => { q with messages := q.messages ++ [m] }
    else p.discard s

/-- The bytes an answer read returns in `clocked` byte times: the answer, then FFh (R175). -/
def returned (clocked : Nat) (bytes : List Byte) : List Byte :=
  (bytes ++ List.replicate (clocked - bytes.length) 0xFF#8).take clocked

/-- An answer read of a port: the head answer, or the empty marker, on MISO; the head leaves the queue where every byte of it has been
clocked out (R175). -/
def Port.readAnswer (p : Port) (clocked : Nat) (s : State) : State :=
  s.onPort p fun q =>
    match q.answers with
    | [] => { q with miso := returned clocked Answer.emptyMarker.bytes }
    | head :: rest =>
      { q with
        miso := returned clocked head.bytes
        answers := if head.bytes.length ≤ clocked then rest else head :: rest }

/-- A transaction of a port, from its whole bytes: one with no whole byte is ignored, as is one of Port B while it is detached; the
first byte gives the type (R173). -/
def Port.transaction (p : Port) (bytes : List Byte) (s : State) : State :=
  if !s.store.nu.attached p then s
  else match bytes with
  | [] => s
  | type :: rest => if type = 0x02 then p.readAnswer rest.length s else p.receive bytes s

/-- MESSAGE_WRITE: a transaction arrives at the rise of chip select (R173, R174). -/
def execMessageWrite (p : Port) (bytes : List Byte) (s : State) : Result := .next (p.transaction bytes s)

/-- ANSWER_READ: a transaction of type 02h (R175). -/
def execAnswerRead (p : Port) (clocked : Nat) (s : State) : Result :=
  .next (if s.store.nu.attached p then p.readAnswer clocked s else s)

/-! ### ATTACH_B (R178) -/

/-- The ATTACH_B line as the Notification Unit holds it. -/
def Nu.attach (level : Bool) (n : Nu) : Nu := { n with attachB := level }

/-- PORT_B_ATTACH: the rise of ATTACH_B.  A line already high does not rise (log 1). -/
def execPortBAttach (s : State) : Result := .next (s.onNu (Nu.attach true))

/-- BL's part of the detach: a load in progress that Port B owns aborted with DETACHED (R172). -/
def Bl.detached (s : State) : State :=
  if s.load.inProgress && s.load.owner == some .b then (Bl.abort .detached s).2 else s

/-- The Command Executor's part of the detach: Port B's queues emptied and its zones made empty (R178). -/
def Cx.detached (s : State) : State :=
  s.onPort .b fun q => { q with messages := [], answers := [], miso := [], zones := Zones.resetB }

/-- The Notification Unit's part of the detach: Port B's sets cleared (R189). -/
def Nu.detached (n : Nu) : Nu := { n with b := EventSets.empty, attachB := false }

/-- The detach of Port B: CU, BL, CX, then NU (R178). -/
def Port.detachB (s : State) : State := (Cx.detached (Bl.detached (Cu.cancelPort .b s))).onNu Nu.detached

/-- PORT_B_DETACH: the fall of ATTACH_B.  A line already low does not fall (log 1). -/
def execPortBDetach (s : State) : Result := .next (if s.store.nu.attachB then Port.detachB s else s)

/-! ### RESET_N (R185) -/

/-- RESET_N_RELEASE: every piece of state takes its value after power-on; Port B follows ATTACH_B.  The line's level, the commands that
wait and what the model draws from outside are no state of the part. -/
def State.release (s : State) : State :=
  { State.reset with
    store := Store.reset s.store.nu.attachB
    draws := s.draws
    upsets := s.upsets
    pending := s.pending }

/-- RESET_N_RELEASE (R185). -/
def execResetNRelease (s : State) : Result := .next s.release

/-! ### UNKNOWN_COMMAND and IDENTIFY (R177, R186) -/

/-- UNKNOWN_COMMAND: the message taken carries a command code that is not one the part defines (R177). -/
def execUnknownCommand (s : State) : Result :=
  .next (Cx.run (fun code => !knownCodes.contains code) (fun _ _ s => (.bare .unknownCommand, s)) s)

/-- IDENTIFY's own part: the part code, the silicon revision, the port (R186).  The revision's letter is carried as its ASCII code in one byte
(DEDUCED, log 16); which letter it is stays open (log 18). -/
def Cx.identifyBody : Body := fun p _ s =>
  (.ok (u16 0x2240 ++ byteOf (0x41 + Config.siliconRevision.val) ++ byteOf p.code), s)

/-- IDENTIFY, 00h (R186). -/
def execIdentify (s : State) : Result := .next (Cx.command 0x00 false (· == 0) Cx.identifyBody s)

/-! ### Write zones (R180, R181) -/

/-- One of a port's four zones replaced. -/
def Zones.set (n : Nat) (z : Zone) (zs : Zones) : Zones :=
  match n with
  | 0 => { zs with z0 := z }
  | 1 => { zs with z1 := z }
  | 2 => { zs with z2 := z }
  | _ => { zs with z3 := z }

/-- SET_ZONE's own part (R180). -/
def Cx.setZoneBody : Body := fun _ payload s =>
  let n := natAt payload 1 1
  let lower := natAt payload 2 2
  let upper := natAt payload 4 2
  match portOf (natAt payload 0 1) with
  | none => (.badField 0, s)
  | some q =>
    if 3 < n then (.badField 1, s)
    else
      let z : Zone := ⟨min 1535 lower, min 1535 upper⟩
      (⟨if lower ≤ 1535 ∧ upper ≤ 1535 then .ok else .clamped, u16 z.lower ++ u16 z.upper⟩,
       s.onPort q fun x => { x with zones := x.zones.set n z })

/-- SET_ZONE, 03h (R180). -/
def execSetZone (s : State) : Result := .next (Cx.command 0x03 true (· == 6) Cx.setZoneBody s)

/-- A zone as READ_ZONES carries it: its bounds and the empty marker (R181). -/
def Zone.bytes (z : Zone) : List Byte := u16 z.lower ++ u16 z.upper ++ flagByte z.isEmpty

/-- READ_ZONES's own part (R181). -/
def Cx.readZonesBody : Body := fun _ payload s =>
  match portOf (natAt payload 0 1) with
  | none => (.badField 0, s)
  | some q => (.ok ((s.port q).zones.toList.flatMap Zone.bytes), s)

/-- READ_ZONES, 04h (R181). -/
def execReadZones (s : State) : Result := .next (Cx.command 0x04 false (· == 1) Cx.readZonesBody s)

/-! ### WALL_RESET (R187) -/

/-- PU's part: every seat VACANT and every placed record ABSENT with its filtered temperature INVALID (R29). -/
def Pu.strike (s : State) : State := (Table.keys s.seats).foldl (fun acc seat => Pu.empty seat acc) s

/-- BL's part: a load in progress aborted with WALL_RESET; whether there was one, and the number of records retired (R172). -/
def Bl.strike (s : State) : (Bool × Nat) × State :=
  if s.load.inProgress then
    let (retired, s) := Bl.abort .wallReset s
    ((true, retired), s)
  else ((false, 0), s)

/-- DT's part: the filtered temperature of every in-use record INVALID, its targets recomputed and its applied gains set equal to them
(R99). -/
def Dt.strike (s : State) : State :=
  s.onStore fun cx st => st.eachInUse fun slot acc =>
    Dt.recompute cx .set slot (Dt.invalidate cx slot acc)

/-- WALL_RESET's own part, its steps in the order of R187. -/
def Cx.wallResetBody : Body := fun _ _ s =>
  let seats := (s.seats.filter fun e => e.2.kind != .vacant).length
  let s := Cd.withdraw (Trl.clear (Pu.strike s))
  let cancelled := (s.slotsWhere fun r => r.hold.isPort).length
  let s := Cu.cancelPort .b (Cu.cancelPort .a s)
  let (abort, s) := Bl.strike s
  let s := Dt.strike s
  (.ok (u16 seats ++ u16 cancelled ++ flagByte abort.1 ++ u16 abort.2 ++ beBytes 4 s.ftu.frameCount.toNat), s)

/-- WALL_RESET, 05h (R187). -/
def execWallReset (s : State) : Result := .next (Cx.command 0x05 true (· == 0) Cx.wallResetBody s)

end Sys2Proof.Machine
end

