-- ==== Sys2Proof/Machine/Dispatch.lean ====
section
/-! DEFINITION. Machine/Dispatch.lean: one arm per command, each one direct call of its meaning. -/
namespace Sys2Proof.Machine

def exec (i : Instr) (s : State) : Host.Outcome State Fault Refusal :=
  match i with
  | .resetNRelease => Sys2Proof.Machine.execResetNRelease s
  | .portBAttach => Sys2Proof.Machine.execPortBAttach s
  | .portBDetach => Sys2Proof.Machine.execPortBDetach s
  | .messageWrite p bytes => Sys2Proof.Machine.execMessageWrite p bytes s
  | .answerRead p clocked => Sys2Proof.Machine.execAnswerRead p clocked s
  | .unknownCommand => Sys2Proof.Machine.execUnknownCommand s
  | .identify => Sys2Proof.Machine.execIdentify s
  | .setParameter => Sys2Proof.Machine.execSetParameter s
  | .readParameter => Sys2Proof.Machine.execReadParameter s
  | .setZone => Sys2Proof.Machine.execSetZone s
  | .readZones => Sys2Proof.Machine.execReadZones s
  | .wallReset => Sys2Proof.Machine.execWallReset s
  | .createRecord => Sys2Proof.Machine.execCreateRecord s
  | .findRecord => Sys2Proof.Machine.execFindRecord s
  | .readRecord => Sys2Proof.Machine.execReadRecord s
  | .scanRecords => Sys2Proof.Machine.execScanRecords s
  | .retireRecord => Sys2Proof.Machine.execRetireRecord s
  | .readDrift => Sys2Proof.Machine.execReadDrift s
  | .setBatchDefault => Sys2Proof.Machine.execSetBatchDefault s
  | .clearBatchDefault => Sys2Proof.Machine.execClearBatchDefault s
  | .readBatchDefault => Sys2Proof.Machine.execReadBatchDefault s
  | .placeSeat => Sys2Proof.Machine.execPlaceSeat s
  | .vacateSeat => Sys2Proof.Machine.execVacateSeat s
  | .readSeat => Sys2Proof.Machine.execReadSeat s
  | .openEdit => Sys2Proof.Machine.execOpenEdit s
  | .writeBank => Sys2Proof.Machine.execWriteBank s
  | .readPending => Sys2Proof.Machine.execReadPending s
  | .releaseEdit => Sys2Proof.Machine.execReleaseEdit s
  | .commitRecord => Sys2Proof.Machine.execCommitRecord s
  | .groupAdd => Sys2Proof.Machine.execGroupAdd s
  | .groupRemove => Sys2Proof.Machine.execGroupRemove s
  | .groupClear => Sys2Proof.Machine.execGroupClear s
  | .groupCommit => Sys2Proof.Machine.execGroupCommit s
  | .queryCommit => Sys2Proof.Machine.execQueryCommit s
  | .selectSource => Sys2Proof.Machine.execSelectSource s
  | .readTiming => Sys2Proof.Machine.execReadTiming s
  | .readIntegrity => Sys2Proof.Machine.execReadIntegrity s
  | .loadBegin => Sys2Proof.Machine.execLoadBegin s
  | .loadRecord => Sys2Proof.Machine.execLoadRecord s
  | .loadAbort => Sys2Proof.Machine.execLoadAbort s
  | .loadStatus => Sys2Proof.Machine.execLoadStatus s
  | .readEvents => Sys2Proof.Machine.execReadEvents s
  | .clearEvents => Sys2Proof.Machine.execClearEvents s
  | .setEventEnables => Sys2Proof.Machine.execSetEventEnables s
  | .readCounters => Sys2Proof.Machine.execReadCounters s
  | .clearCounters => Sys2Proof.Machine.execClearCounters s
  | .reportArrival samples => Sys2Proof.Machine.execReportArrival samples s
  | .announce => Sys2Proof.Machine.execAnnounce s
  | .status => Sys2Proof.Machine.execStatus s
  | .lost => Sys2Proof.Machine.execLost s
  | .frameRefPulse elapsed => Sys2Proof.Machine.execFrameRefPulse elapsed s
  | .internalExpiry => Sys2Proof.Machine.execInternalExpiry s
  | .referenceLoss => Sys2Proof.Machine.execReferenceLoss s
  | .holdExpired => Sys2Proof.Machine.execHoldExpired s
  | .loadTimeout => Sys2Proof.Machine.execLoadTimeout s
  | .seatStale => Sys2Proof.Machine.execSeatStale s
  | .pixelBurst tag p => Sys2Proof.Machine.execPixelBurst tag p s
  | .pixel p => Sys2Proof.Machine.execPixel p s

end Sys2Proof.Machine
end

