-- ==== Sys2Proof/Machine/Step.lean ====
section
/-! DEFINITION. Machine/Step.lean: one step of the block: the command at the front of the queue, or 1 us without a command. -/
namespace Sys2Proof.Machine

/-- One step.  The command at the front of the queue is carried out with the queue's rest.  On an empty queue a bit flip that waits lands
in the record store, and 1 us passes (DESIGN CHOICE, logs 4 and 5). -/
def step (s : State) : Host.Outcome State Fault Refusal :=
  match s.pending with
  | c :: rest => exec c { s with pending := rest }
  | [] => .next (State.idle s)

/-- The state with the command a table word spells put at the front of its queue.  No row of the table gives bits, so no word spells one. -/
def State.withFetchWord (s : State) (nbits w : Nat) : State :=
  match Sys2Proof.decodeTableWord nbits w with
  | some c => { s with pending := c :: s.pending }
  | none => s

end Sys2Proof.Machine
end

