-- ==== Sys2Proof/Safety.lean ====
section
/-! DEFINITION. Safety.lean: the terms in which claims about the part are stated: what the executor takes and leaves, the bounds and the
invariants of the state. -/
namespace Sys2Proof.Machine

/-! ### One command of the executor (R177) -/

/-- The executor takes a message next from port `p`: it stands at the head of the port's queue with `rest` behind it, the port is attached and
has room for the answer, and where the other port is eligible too, that is the port taken last. -/
def State.takes (s : State) (p : Port) (code : Nat) (tag : Byte) (payload : List Byte) (rest : List Message) : Prop :=
  (s.port p).messages = ⟨BitVec.ofNat 8 code, tag, payload⟩ :: rest ∧ s.store.nu.attached p = true ∧
    (s.port p).answers.length < 4 ∧ (s.eligible p.other = true → s.lastTaken = p.other)

/-- The state in which the message taken has left the queue of port `p` and its answer stands at the tail of the port's answers; nothing
else differs. -/
def State.answered (s : State) (p : Port) (rest : List Message) (tag : Byte) (code : AnswerCode) (payload : List Byte) : State :=
  { s.onPort p fun q =>
      { q with messages := rest, answers := q.answers ++ [⟨tag, BitVec.ofNat 8 code.code, payload⟩] } with lastTaken := p }

/-- The state once a message has left the queue of port `p` and its port is the one taken last. -/
def State.taken (s : State) (p : Port) (rest : List Message) : State :=
  { s.onPort p fun q => { q with messages := rest } with lastTaken := p }

/-- The eight commands that Port A alone may send, with their codes (R179). -/
def portAOnly : List (Instr × Nat) :=
  [(Instr.setParameter, 0x01), (.setZone, 0x03), (.wallReset, 0x05), (.setBatchDefault, 0x16), (.clearBatchDefault, 0x17),
    (.placeSeat, 0x20), (.selectSource, 0x40), (.clearCounters, 0x64)]

/-- The commands whose payload has one length, with their codes and that length (R177, R188). -/
def payloadLengths : List (Instr × Nat × Nat) :=
  [(Instr.identify, 0x00, 0), (.setParameter, 0x01, 5), (.readParameter, 0x02, 1), (.setZone, 0x03, 6),
      (.readZones, 0x04, 1), (.wallReset, 0x05, 0), (.createRecord, 0x10, 8), (.findRecord, 0x11, 6), (.readRecord, 0x12, 2),
      (.scanRecords, 0x13, 3), (.retireRecord, 0x14, 2), (.readDrift, 0x15, 2), (.clearBatchDefault, 0x17, 2),
      (.readBatchDefault, 0x18, 1), (.placeSeat, 0x20, 4), (.vacateSeat, 0x21, 2), (.readSeat, 0x22, 2), (.openEdit, 0x30, 2),
      (.readPending, 0x32, 2), (.releaseEdit, 0x33, 2), (.commitRecord, 0x34, 4), (.groupAdd, 0x35, 4), (.groupRemove, 0x36, 2),
      (.groupClear, 0x37, 0), (.groupCommit, 0x38, 0), (.queryCommit, 0x39, 0), (.selectSource, 0x40, 1), (.readTiming, 0x41, 0),
      (.readIntegrity, 0x4C, 0), (.loadBegin, 0x50, 2), (.loadAbort, 0x52, 0), (.loadStatus, 0x53, 0), (.readEvents, 0x60, 0),
      (.clearEvents, 0x61, 2), (.setEventEnables, 0x62, 2), (.readCounters, 0x63, 0), (.clearCounters, 0x64, 0)]

/-- No stored bit is in error (R148). -/
def State.clean (s : State) : Prop := s.store.damage = []

/-- A seat lies outside each of a port's four write zones (R114, R179). -/
def State.outsideZones (s : State) (p : Port) (seat : Nat) : Prop :=
  ∀ z ∈ [(s.port p).zones.z0, (s.port p).zones.z1, (s.port p).zones.z2, (s.port p).zones.z3], seat < z.lower ∨ z.upper < seat

/-! ### Allocations (R13, R14) -/

/-- A record that an auto-reclaim may retire: in use, ABSENT, unheld and CLOSED, and not created by the load (R14). -/
def State.mayReclaim (s : State) (n : Nat) : Prop :=
  (s.record n).inUse = true ∧ (s.record n).seat = none ∧ (s.record n).hold = .none ∧ (s.record n).condition = .closed ∧
    (s.record n).createdByLoad = false

/-- The record that an auto-reclaim retires: of those it may, the one of the greatest age modulo 2^32, in the lowest slot among equal ages
(R14). -/
def State.reclaims (s : State) (slot : Nat) : Prop :=
  let age := fun (n : Nat) => (s.ftu.frameCount - (s.record n).lastSeen).toNat
  s.mayReclaim slot ∧ ∀ n, s.mayReclaim n → age n < age slot ∨ age n = age slot ∧ slot ≤ n

/-- An allocation gives a slot, leaves a queue, and retires the record of an identity or none: the slot is the head of the Free Slot Queue, or,
with none free and AUTO_RECLAIM on, that of the record an auto-reclaim retires (R13). -/
def State.allocates (s : State) (slot : Nat) (queue : List Nat) (retired : Option Nat) : Prop :=
  s.freeQueue = slot :: queue ∧ retired = none ∨
    s.freeQueue = [] ∧ queue = [] ∧ s.params.autoReclaim = true ∧ s.reclaims slot ∧ retired = some (s.record slot).identity

/-- An allocation gives no slot: none is free, and AUTO_RECLAIM is off or no record is eligible (R13). -/
def State.allocatesNone (s : State) : Prop :=
  s.freeQueue = [] ∧ (s.params.autoReclaim = false ∨ ∀ n, ¬ s.mayReclaim n)

/-! ### Frames -/

/-- An event kind stands pending at a port of `m` exactly where it stood so in `n`, or where the port is attached and `now` holds (R190). -/
def Nu.addsAt (n m : Nu) (p : Port) (e : Event) (now : Prop) : Prop :=
  (m.sets p).pending.getLsbD e.number = true ↔ (n.sets p).pending.getLsbD e.number = true ∨ n.attached p = true ∧ now

/-- An event kind is added to both ports exactly where `now` holds. -/
def Nu.adds (n m : Nu) (e : Event) (now : Prop) : Prop := ∀ p, n.addsAt m p e now

/-- CEILING is added to both ports exactly where the ceiling flag of some record has moved from clear to set: a recompute that finds the flag
set adds nothing, nor does one that clears it (R90). -/
def State.addsCeiling (s t : State) : Prop :=
  s.store.nu.adds t.store.nu .ceiling (∃ n, (s.record n).ceiling = false ∧ (t.record n).ceiling = true)

/-- What work leaves in the Notification Unit that raises no counter and adds to the pending sets no event kind but those named. -/
def Nu.gains (kinds : List Event) (n m : Nu) : Prop :=
  m.counters = n.counters ∧ m.attachB = n.attachB ∧ ∀ p, (m.sets p).enabled = (n.sets p).enabled ∧
    ∀ e : Event, ((n.sets p).pending.getLsbD e.number = true → (m.sets p).pending.getLsbD e.number = true) ∧
      ((m.sets p).pending.getLsbD e.number = true → (n.sets p).pending.getLsbD e.number = true ∨ e ∈ kinds)

/-- `t` differs from `s` at most in what the ending of edits and loads touches: the records with their directory, the load, the commit lists
and the scheduled sets, and the Notification Unit. -/
def State.editsOnly (s t : State) : Prop :=
  t = { s with
    store := { s.store with records := t.store.records, damage := t.store.damage, nu := t.store.nu }
    index := t.index
    freeQueue := t.freeQueue
    load := t.load
    portA := { s.portA with commitList := t.portA.commitList, scheduled := t.portA.scheduled }
    portB := { s.portB with commitList := t.portB.commitList, scheduled := t.portB.scheduled } }

/-- A record whose claim has ended: held by none, CLOSED, its pending bank not damaged (R105). -/
def Record.unclaimed (r : Record) : Record := { r with hold := .none, condition := .closed, pendingDamaged := false }

/-- The records the load has created and that an abandonment retires, for they are ABSENT, in the order of the load's list (R167). -/
def State.createdAbsent (s : State) : List Nat :=
  s.load.list.filter fun n => (s.record n).createdByLoad && (s.record n).seat.isNone

/-- The load's fields once it has been abandoned (R160, R167). -/
def Load.abandoned (l : Load) (reason : Reason) : Load :=
  { l with
    state := .aborted, reason := reason, count := l.list.length, list := [], scheduled := [], committed := 0, failed := 0,
    firstFailed := none }

/-- What the abandonment of the load of `s` leaves in `t`: the load ended with its reason; the created records that were ABSENT blank, their
slots at the tail of the Free Slot Queue in the order of the list, their identities out of the index and their words written; every other
record of the list unclaimed, as `rest` then leaves it; no other identity and no other slot touched (R167). -/
def State.abandons (s t : State) (reason : Reason) (rest : Record → Record) : Prop :=
  t.load = s.load.abandoned reason ∧ t.freeQueue = s.freeQueue ++ s.createdAbsent ∧
  t.store.damage = s.store.damage.filter (fun d => d.slot ∉ s.createdAbsent) ∧
  (∀ x, t.lookup x = if x ∈ s.createdAbsent.map (fun n => (s.record n).identity) then none else s.lookup x) ∧
  ∀ n ∈ s.load.list, t.record n =
    if n ∈ s.createdAbsent then Record.blank else rest { (s.record n).unclaimed with createdByLoad := false }

/-! ### Arrivals (R30, R31, R101) -/

/-- Row `c` takes the report as an arrival, with the temperature it carries: an ANNOUNCE, or a STATUS that is not of the occupant of the seat it
names (R30). -/
def State.arrives (s : State) (r : Report) (c : Instr) (reading : Option Int) : Prop :=
  c = .announce ∧ r.kind = .announce ∧ reading = none ∨ c = .status ∧ r.kind = .status reading ∧
    ¬ ∃ n, (s.seat (r.distPort * 96 + r.chain)).kind = .placed n ∧ (s.record n).identity = r.identity

/-- The entry of a seat once the consequence of the gap mark a report carries, if it carries one, has been applied: a seat of the report's
distribution port that is not VACANT and has origin REPORTED is UNCONFIRMED (R31). -/
def State.gapped (s : State) (r : Report) (k : Nat) : Seat :=
  if r.gap = true ∧ k / 96 = r.distPort ∧ (s.seat k).kind ≠ .vacant ∧ (s.seat k).origin = .reported
  then { s.seat k with fresh := .unconfirmed } else s.seat k

/-- Every offer that counts adds 1 to the drift batch counter, and DRIFT_BATCH to both ports where it then equals DRIFT_GAP and starts again;
beside it the Notification Unit gains at most some kinds on `nu` (R101). -/
def State.countsOffer (s t : State) (counts : Prop) (nu : Nu) (kinds : List Event) : Prop :=
  (¬ counts ∨ s.params.driftGap = 0 → t.driftCounter = s.driftCounter ∧ nu.gains kinds t.store.nu) ∧
  (counts → s.params.driftGap ≠ 0 → s.driftCounter + 1 ≠ s.params.driftGap →
    t.driftCounter = s.driftCounter + 1 ∧ nu.gains kinds t.store.nu) ∧
  (counts → s.params.driftGap ≠ 0 → s.driftCounter + 1 = s.params.driftGap → t.driftCounter = 0 ∧
    (∀ p, s.store.nu.attached p = true → (t.store.nu.sets p).pending.getLsbD Event.driftBatch.number = true) ∧
    nu.gains (.driftBatch :: kinds) t.store.nu)

/-! ### Boundaries (R137, R138) -/

/-- The next expiry is a boundary, for the timing is internal and it is not held, or it completes a switch to INTERNAL; and it lies ahead with no
loss before it (R137). -/
def State.expiryDue (s : State) : Prop :=
  (s.ftu.current = .internal ∧ s.ftu.expiryHeld = false ∨ s.ftu.current = .external ∧ s.ftu.requested = .internal) ∧
    s.ftu.now ≤ s.ftu.nextExpiry ∧ ∀ l, s.lossDeadline = some l → s.ftu.nextExpiry ≤ l

/-! ### Bounds -/

/-- A port's queues within their four places, and its commit list within its 64 (R117, R174, R175). -/
def PortState.bounded (q : PortState) : Prop :=
  q.messages.length ≤ 4 ∧ q.answers.length ≤ 4 ∧ q.commitList.length ≤ 64

/-- Every queue and list within its bound (R53, R117, R174, R175). -/
def State.bounded (s : State) : Prop :=
  s.portA.bounded ∧ s.portB.bounded ∧ s.trl.queue.length ≤ 64

/-- Every counter within 0..65535 (R195). -/
def State.countersBounded (s : State) : Prop := ∀ n ∈ s.store.nu.counters.values, n ≤ 65535

/-- Every parameter within its range (R182). -/
def Params.inRange (ps : Params) : Prop := ∀ q : Param, q.range.1 ≤ ps.value q ∧ ps.value q ≤ q.range.2

/-- No target gain and no applied gain of any record above HEADROOM_LIMIT (R1). -/
def State.withinLimit (s : State) : Prop :=
  ∀ n, ∀ v ∈ (s.record n).target.toList ++ (s.record n).applied.toList, v ≤ s.params.headroomLimit

/-! ### Forms -/

/-- Every table in its canonical form, so that equal contents are equal data. -/
def State.canonical (s : State) : Prop :=
  Table.wf Record.blank s.store.records ∧ Table.wf none s.index ∧ Table.wf none s.batches ∧ Table.wf Seat.vacant s.seats ∧
    Table.wf 255#8 s.trl.lastSeq ∧ Table.wf SnapEntry.dark s.cd.snapshot ∧ Table.wf 0 s.cd.running ∧ Table.wf 0 s.cd.readable

/-- The Frame Timing Unit's flags agree with one another: a switch is pending exactly while the sources differ, an expiry is held only while a
switch to EXTERNAL waits with the monitor LOCKED, timing is external only with the monitor LOCKED, and an ACQUIRING count is 1..7 (R133, R135,
R139, R143). -/
def Ftu.sound (f : Ftu) : Prop :=
  (f.switchPending = true ↔ f.requested ≠ f.current) ∧
  (f.expiryHeld = true → f.current = .internal ∧ f.requested = .external ∧ f.monitor = .locked) ∧
  (f.current = .external → f.monitor = .locked) ∧
  (∀ n, f.monitor = .acquiring n → 1 ≤ n ∧ n ≤ 7) ∧
  (f.monitor ≠ .noReference → f.lastPulse ≠ none)

/-- The dither register is not zero, and no seed load that is due would make it so (R78, R79). -/
def State.ditherSound (s : State) : Prop := s.cd.dither ≠ 0 ∧ ∀ v, s.cd.seedLoad = some v → v ≤ 0x7FFF

/-! ### The directory of the record store -/

/-- The Free Slot Queue holds exactly the FREE slots, each once, and a FREE slot reads as R1 gives (R1, R12). -/
def State.pool (s : State) : Prop :=
  s.freeQueue.Nodup ∧ (∀ n, n ∈ s.freeQueue ↔ n < 2048 ∧ (s.record n).inUse = false) ∧
    (∀ n, (s.record n).inUse = false → s.record n = Record.blank) ∧ (∀ n, 2048 ≤ n → s.record n = Record.blank)

/-- The Identity Index holds one entry for each record in use, and no other (R10). -/
def State.indexed (s : State) : Prop :=
  (∀ x e, s.lookup x = some e →
    (s.record e.slot).inUse = true ∧ (s.record e.slot).identity = x ∧ (s.record e.slot).batch = e.batch) ∧
  (∀ n, (s.record n).inUse = true → s.lookup (s.record n).identity = some ⟨n, (s.record n).batch⟩)

/-- A seat is PLACED with a slot exactly where the slot's record names that seat (R1, R27). -/
def State.seated (s : State) : Prop := ∀ n slot, (s.seat n).kind = .placed slot ↔ (s.record slot).seat = some n

/-- The table of R104: a hold is NONE exactly while the condition is CLOSED; a commit list holds, each once, the FROZEN records of its port, and a
scheduled set, ascending, the SCHEDULED records of its owner; the load's list holds, each once, the records the load holds, and the load holds
records only while it is ACTIVE, FROZEN, or COMMITTING, SCHEDULED (R1, R104, R117, R122, R160).  Pending damaged is set only while a bank is
claimed (R153), and created by load only on the load's own records (R1, R163). -/
def State.claims (s : State) : Prop :=
  (∀ n, (s.record n).hold = .none ↔ (s.record n).condition = .closed) ∧
  (∀ p, (s.port p).commitList.Nodup ∧
    ∀ n, n ∈ (s.port p).commitList ↔ (s.record n).hold = p.hold ∧ (s.record n).condition = .frozen) ∧
  (∀ p, (s.port p).scheduled.Pairwise (· < ·) ∧
    ∀ n, n ∈ (s.port p).scheduled ↔ (s.record n).hold = p.hold ∧ (s.record n).condition = .scheduled) ∧
  (s.load.list.Nodup ∧ ∀ n, n ∈ s.load.list ↔ (s.record n).hold = .load) ∧
  (s.load.scheduled.Pairwise (· < ·) ∧
    ∀ n, n ∈ s.load.scheduled ↔ (s.record n).hold = .load ∧ (s.record n).condition = .scheduled) ∧
  (∀ n, (s.record n).hold = .none → (s.record n).pendingDamaged = false) ∧
  (∀ n, (s.record n).createdByLoad = true → n ∈ s.load.list) ∧
  (∀ n, (s.record n).hold = .load → s.load.state = .active ∧ (s.record n).condition = .frozen ∨
    s.load.state = .committing ∧ (s.record n).condition = .scheduled)

/-- The whole directory: pool, index, seats and claims agree with the records. -/
def State.directory (s : State) : Prop := s.pool ∧ s.indexed ∧ s.seated ∧ s.claims

/-- A safe step: it answers a next state, and one within the bounds wherever it began within them. -/
def SafeStep (s : State) : Prop :=
  ∃ t, step s = .next t ∧ (s.bounded → t.bounded)

end Sys2Proof.Machine
end

