-- ==== Sys2Proof/WellFormed.lean ====
section
/-! DEFINITION. WellFormed.lean: the operands a command can have. -/
namespace Sys2Proof
open Machine

/-- Whether a transaction is one of type 02h, an answer read (R173). -/
def isAnswerRead : List Byte → Bool
  | type :: _ => type == 0x02
  | [] => false

/-- A well-formed command: a MESSAGE_WRITE is no answer read, whose row is ANSWER_READ; a REPORT_ARRIVAL has at least the sample
with which its report arrives.  Every other operand is taken at every value its type admits.  `exec` has a meaning on the others too. -/
def Instr.wf : Instr → Bool
  | .messageWrite _ bytes => !isAnswerRead bytes
  | .reportArrival samples => !samples.isEmpty
  | _ => true

end Sys2Proof
end

