-- ==== Sys2Proof/Certificates/Slice0/Obligations.lean ====
section
/-! DEFINITION. Certificates/Slice0/Obligations.lean: the statements for the provers. -/
open Sys2Proof Sys2Proof.Machine

/-! ### The step, reset and the passing of time -/

/-- A step with a command waiting carries out the command at the front with the queue's rest (log 1 gives the queue). A step with no command
moves the clock by 1 us where no expiry and no loss falls due before it (log 4: the model's choice). A bit flip that waits then lands in its
word: the word's flipped bits gain the bit, or lose it where it was flipped, and a word without flipped bits is without error (log 5: the
model's choice); nothing else changes. -/
def Obligations.StepRunsFrontCommandOrPassesTime : Prop :=
  (∀ (c : Instr) (rest : List Instr) (s : State), s.pending = c :: rest → step s = exec c { s with pending := rest }) ∧
  (∀ s : State, s.pending = [] → s.upsets = [] →
    (∀ e, s.expiryDeadline = some e → s.ftu.now < e) → (∀ l, s.lossDeadline = some l → s.ftu.now < l) →
    step s = .next { s with ftu := { s.ftu with now := s.ftu.now + 1 } }) ∧
  (∀ (s : State) (u : Upset) (more : List Upset), s.pending = [] → s.upsets = u :: more →
    (∀ e, s.expiryDeadline = some e → s.ftu.now < e) → (∀ l, s.lossDeadline = some l → s.ftu.now < l) →
    let here := fun (d : Damage) => decide (d.slot = u.slot ∧ d.word = u.word)
    let others := s.store.damage.filter fun d => !here d
    let landed := fun (damage : List Damage) => step s = .next { s with
      upsets := more, store := { s.store with damage := damage }, ftu := { s.ftu with now := s.ftu.now + 1 } }
    (s.store.damage.find? here = none → landed (s.store.damage ++ [⟨u.slot, u.word, [u.bit]⟩])) ∧
    (∀ d, s.store.damage.find? here = some d → u.bit ∉ d.bits → landed (others ++ [⟨u.slot, u.word, d.bits ++ [u.bit]⟩])) ∧
    (∀ d, s.store.damage.find? here = some d → u.bit ∈ d.bits →
      let left := d.bits.filter (· ≠ u.bit)
      (left = [] → landed others) ∧ (left ≠ [] → landed (others ++ [⟨u.slot, u.word, left⟩]))))

/-- R185: a release of RESET_N puts every piece of state that the manual gives a power-on value into that value, moments counted from the
release, and Port B follows ATTACH_B. The two directory fields and the stopped load timer, to which the manual gives none (log 14), are left
out. -/
def Obligations.ResetReleaseRestoresPowerOnState : Prop :=
  ∀ s : State, ∃ t, exec .resetNRelease s = .next t ∧
    (∀ n, t.record n = { Record.blank with holdTimer := (t.record n).holdTimer, expectedCrc := (t.record n).expectedCrc }) ∧
    t.store.damage = [] ∧ t.store.finding = none ∧
    t.store.nu = ⟨⟨0, 0⟩, ⟨0, 0⟩, s.store.nu.attachB, ⟨0, 0, 0, 0, 0, 0, 0, 0, 0, 0, 0, 0, 0⟩⟩ ∧
    (∀ x, t.lookup x = none) ∧ t.freeQueue = List.range 2048 ∧ (∀ b, batchEntryOf t.batches b = none) ∧
    (∀ n, (t.seat n).kind = .vacant) ∧
    t.trl.queue = [] ∧ (∀ p, t.trl.last p = 255) ∧ t.driftCounter = 0 ∧
    (∀ p, (t.port p).messages = [] ∧ (t.port p).answers = [] ∧ (t.port p).commitList = [] ∧ (t.port p).scheduled = [] ∧
      (t.port p).outcome = ⟨0, 0, 0, none⟩ ∧ (t.port p).expiry = none) ∧
    (∀ n, n ≤ 1535 → t.zonePass .a (some n) = true ∧ t.zonePass .b (some n) = false) ∧
    t.ftu.current = .internal ∧ t.ftu.requested = .external ∧ t.ftu.switchPending = true ∧ t.ftu.expiryHeld = false ∧
    t.ftu.monitor = .noReference ∧ t.ftu.lastPulse = none ∧ t.ftu.newer = none ∧ t.ftu.older = none ∧
    t.ftu.lastBoundary = t.ftu.now ∧ t.ftu.nextExpiry = t.ftu.now + 16667 ∧ t.ftu.frameCount = 0 ∧
    (∀ n, Table.get .dark t.cd.snapshot n = .dark) ∧ t.cd.settings = ⟨128, 128, true⟩ ∧ t.cd.withdrawn = false ∧
    t.cd.dither = 0x2D1B ∧ t.cd.seedArmed = false ∧ (∀ n, Table.get 0 t.cd.running n = 0 ∧ Table.get 0 t.cd.readable n = 0) ∧
    t.cursor = 0 ∧ t.load = ⟨.idle, none, 0, none, [], 0, t.load.timer, 0, 0, none, .none, []⟩ ∧
    t.params = ⟨32768, 8, 24576, true, 0x2D1B, 128, 128, true, false, 32, 600, 18000, 48, 16667, 1, 0⟩ ∧ t.lastTaken = .b

/-- The state after reset meets every invariant that the statements below say each step keeps. -/
def Obligations.ResetStateMeetsEveryInvariant : Prop :=
  State.reset.canonical ∧ State.reset.directory ∧ State.reset.withinLimit ∧ State.reset.ftu.sound ∧ State.reset.bounded ∧
    State.reset.countersBounded ∧ State.reset.params.inRange ∧ State.reset.ditherSound

/-! ### Command ports -/

/-- R174: a message that carries no framing error joins the tail of its port's queue where there is room, and nothing else changes. R174:
bytes that are no framed message, and any message at a full queue, are discarded: MESSAGE_DISCARDED is added to the port's pending set and
its counter rises by 1, and nothing else changes. -/
def Obligations.MessagesJoinOrAreDiscarded : Prop :=
  (∀ (s : State) (p : Port) (m : Message), s.store.nu.attached p = true → (s.port p).messages.length < 4 → m.payload.length ≤ 250 →
    exec (.messageWrite p m.bytes) s = .next (s.onPort p fun q => { q with messages := q.messages ++ [m] })) ∧
  (∀ (s : State) (p : Port) (first : Byte) (rest : List Byte), s.store.nu.attached p = true → first ≠ 0x02 →
    ((∀ m : Message, m.payload.length ≤ 250 → first :: rest ≠ m.bytes) ∨ 4 ≤ (s.port p).messages.length) →
    exec (.messageWrite p (first :: rest)) s = .next (s.onNu fun n =>
      Nu.count (match p with | .a => .discardedA | .b => .discardedB) 1 (n.add p .messageDiscarded)))

/-- R175: an answer read returns the head answer with its layout of R188, padded with FFh, and removes it exactly where every byte was
clocked out; an empty queue returns the empty marker and stays empty. (That the bytes behind the empty marker are FFh too is the model's
reading, log 16.) -/
def Obligations.AnswerReadReturnsTheHeadAnswer : Prop :=
  ∀ (s : State) (p : Port) (n : Nat), s.store.nu.attached p = true → ∃ t, exec (.answerRead p n) s = .next t ∧
    (t.port p).miso.length = n ∧
    t = s.onPort p (fun q => { q with miso := (t.port p).miso, answers := (t.port p).answers }) ∧
    match (s.port p).answers with
    | [] => (t.port p).answers = [] ∧ (t.port p).miso <+: (Answer.mk 0x00 0xFF []).bytes ++ List.replicate n 0xFF
    | a :: more =>
      (t.port p).miso <+: ([a.tag, a.code] ++ byteOf a.payload.length ++ a.payload ++
        halfBytes (crc16 ([a.tag, a.code] ++ byteOf a.payload.length ++ a.payload))) ++ List.replicate n 0xFF ∧
      (t.port p).answers = if 5 + a.payload.length ≤ n then more else a :: more

/-- R173, R178: a rise of ATTACH_B attaches Port B and changes nothing else; while it is detached its transactions change nothing, and a
transaction with no whole byte changes nothing at either port. -/
def Obligations.PortBTakesTransactionsOnlyWhileAttached : Prop :=
  (∀ s : State, exec .portBAttach s = .next { s with store := { s.store with nu := { s.store.nu with attachB := true } } }) ∧
  (∀ (s : State) (bytes : List Byte) (n : Nat), s.store.nu.attachB = false →
    exec (.messageWrite .b bytes) s = .next s ∧ exec (.answerRead .b n) s = .next s) ∧
  (∀ (s : State) (p : Port), exec (.messageWrite p []) s = .next s)

/-- R132, R172, R178, R189: the fall of ATTACH_B ends every claim Port B holds, abandons a load in progress that it owns, as R167 gives, and
empties its queues, commit list, scheduled set, zones and event sets; it leaves everything else as it is: all that is Port A's, the other
records, the seats, the Parameter Set, the counters and the timing. (That the bytes of the last answer read go with the queues is log 19. A
line already low does not fall, and nothing changes: log 1.) -/
def Obligations.DetachClearsWhatPortBLeft : Prop :=
  (∀ s : State, s.canonical → s.directory → s.store.nu.attachB = true → ∃ t, exec .portBDetach s = .next t ∧
    t = { s with
      store := { s.store with
        records := t.store.records, damage := t.store.damage, nu := { s.store.nu with b := ⟨0, 0⟩, attachB := false } }
      index := t.index
      freeQueue := t.freeQueue
      load := t.load
      portB := { s.portB with
        messages := [], answers := [], miso := [], zones := t.portB.zones, commitList := [], scheduled := [] } } ∧
    (∀ n, t.zonePass .b (some n) = false) ∧
    (∀ n, n ∉ s.load.list → t.record n = if (s.record n).hold = .portB then (s.record n).unclaimed else s.record n) ∧
    (s.load.owner = some .b → s.load.inProgress = true → s.abandons t .detached id) ∧
    (s.load.owner ≠ some .b ∨ s.load.inProgress = false → t.load = s.load ∧ t.index = s.index ∧ t.freeQueue = s.freeQueue ∧
      t.store.damage = s.store.damage ∧ ∀ n ∈ s.load.list, t.record n = s.record n)) ∧
  (∀ s : State, s.store.nu.attachB = false → exec .portBDetach s = .next s)

/-! ### The Command Executor -/

/-- R177: of two eligible ports the executor takes the one it did not take last, whatever command each message carries. R177: a command code
the part does not define is answered UNKNOWN_COMMAND with the message's tag, and nothing else changes. -/
def Obligations.ExecutorTakesTurnsAndRefusesUnknownCodes : Prop :=
  (∀ (s : State) (p : Port) (code : Nat) (tag : Byte) (payload : List Byte) (rest : List Message),
    code < 256 → code ∉ knownCodes → s.takes p code tag payload rest →
    exec .unknownCommand s = .next (s.answered p rest tag .unknownCommand [])) ∧
  (∀ (s : State) (p : Port), s.eligible p = true →
    (s.eligible p.other = true → s.lastTaken = p.other) →
    ∃ m rest, (s.port p).messages = m :: rest ∧ Cx.take s = some (p, m, { s.onPort p (fun q => { q with messages := rest }) with
      lastTaken := p }))

/-- R179: each of the eight commands that Port A alone may send is answered NOT_PERMITTED to Port B, and changes nothing else. R177: a
payload whose length does not suit the operands is answered BAD_FIELD naming the length, at either port that may send the command, and
changes nothing else. One list gives the length of every command whose operands have one, and the other the least length of the three whose
length varies. (That the check of the length reaches every command, also one its rule calls one that cannot be refused, is the model's
reading, log 17.) -/
def Obligations.SharedChecksRefuseBeforeAnyEffect : Prop :=
  (∀ (s : State) (tag : Byte) (payload : List Byte) (rest : List Message) (c : Instr) (code : Nat),
    (c, code) ∈ portAOnly →
    s.takes .b code tag payload rest → exec c s = .next (s.answered .b rest tag .notPermitted [])) ∧
  (∀ (s : State) (p : Port) (tag : Byte) (payload : List Byte) (rest : List Message) (c : Instr) (code n : Nat),
    (c, code, n) ∈ payloadLengths → payload.length ≠ n → (p = .b → (c, code) ∉ portAOnly) → s.takes p code tag payload rest →
    exec c s = .next (s.answered p rest tag .badField [0xFF])) ∧
  (∀ (s : State) (p : Port) (tag : Byte) (payload : List Byte) (rest : List Message) (c : Instr) (code least : Nat),
    (c, code, least) ∈ [(Instr.setBatchDefault, 0x16, 41), (.writeBank, 0x31, 3), (.loadRecord, 0x51, 49)] → payload.length < least →
    (p = .b → (c, code) ∉ portAOnly) → s.takes p code tag payload rest →
    exec c s = .next (s.answered p rest tag .badField [0xFF]))

/-! ### Identity, parameters and zones -/

/-- R184, R186: IDENTIFY answers the part code, a capital letter and the port it was taken on; READ_PARAMETER answers the stored value, or
BAD_FIELD for a number that is not in the table. Neither changes anything else. Which letter it is stays open. (The widths of the part code
and of the value, and that the letter is carried as one byte of ASCII, are the model's reading, log 16.) -/
def Obligations.IdentityAndParametersAreRead : Prop :=
  (∀ (s : State) (p : Port) (tag : Byte) (rest : List Message), s.takes p 0x00 tag [] rest →
    ∃ letter : Nat, 0x41 ≤ letter ∧ letter ≤ 0x5A ∧
      exec .identify s = .next (s.answered p rest tag .ok [0x22, 0x40, BitVec.ofNat 8 letter, BitVec.ofNat 8 p.code])) ∧
  (∀ (s : State) (p : Port) (tag : Byte) (rest : List Message) (number : Nat) (q : Param), number < 256 → paramOf number = some q →
    s.takes p 0x02 tag (byteOf number) rest → exec .readParameter s = .next (s.answered p rest tag .ok (beBytes 4 (s.params.value q)))) ∧
  (∀ (s : State) (p : Port) (tag : Byte) (rest : List Message) (number : Nat), number < 256 → (number = 0 ∨ 0x10 < number) →
    s.takes p 0x02 tag (byteOf number) rest → exec .readParameter s = .next (s.answered p rest tag .badField [0]))

/-- R183: SET_PARAMETER stores the value clamped to the parameter's range and answers the number and the value taken, CLAMPED where it was
changed. Beside this a write of DITHER_SEED arms a load (R79), one of DRIFT_GAP restarts the drift batch counter (R101), one of
POOL_LOW_THRESHOLD adds POOL_LOW where that condition begins (R16), one of NOMINAL_PERIOD sets the next expiry afresh, on internal timing
with a boundary at once where that has passed, and declares the loss at once where its deadline has passed, which ends external timing with
REF_FALLBACK, and with a boundary at once where the next expiry has passed (R136, R140, R146), and one of the eleven parameters that are
read later changes nothing more. R146, R183: a parameter number that is not in the table, a value an enumerated parameter does not take, and
NOMINAL_PERIOD while a switch is pending are refused, and nothing is written. -/
def Obligations.SetParameterStoresOrIsRefused : Prop :=
  (∀ (s : State) (tag : Byte) (rest : List Message) (number value : Nat) (q : Param), paramOf number = some q → value < 2 ^ 32 →
    s.takes .a 0x01 tag (byteOf number ++ beBytes 4 value) rest →
    (q ∈ [Param.ditherMode, .autoCreate, .autoReclaim] → value ≤ 1) → (q = .nominalPeriod → s.ftu.switchPending = false) →
    let v := max q.range.1 (min q.range.2 value)
    let code : AnswerCode := if q.range.1 ≤ value ∧ value ≤ q.range.2 then .ok else .clamped
    (∃ t : State, exec .setParameter s = .next (t.answered .a rest tag code (byteOf number ++ beBytes 4 v)) ∧
      t.params = s.params.store q v ∧ t.portA.answers = s.portA.answers) ∧
    (q ∉ [Param.headroomLimit, .fallbackGain, .poolLowThreshold, .nominalPeriod] → exec .setParameter s = .next (({ s with
        params := s.params.store q v
        driftCounter := if q = .driftGap then 0 else s.driftCounter
        cd := if q = .ditherSeed then { s.cd with seedArmed := true } else s.cd } : State).answered .a rest tag code
      (byteOf number ++ beBytes 4 v))) ∧
    (q = .poolLowThreshold → exec .setParameter s = .next (({ s with
        params := { s.params with poolLowThreshold := v }
        store := { s.store with nu := if s.params.poolLowThreshold ≤ s.freeQueue.length ∧ s.freeQueue.length < v
          then s.store.nu.addBoth .poolLow else s.store.nu } } : State).answered .a rest tag code (byteOf number ++ beBytes 4 v))) ∧
    (q = .nominalPeriod → (s.ftu.current = .internal → s.ftu.now < s.ftu.lastBoundary + v) →
      (∀ last, s.ftu.lastPulse = some last → s.ftu.now < last + 3 * v / 2) → exec .setParameter s = .next (({ s with
        params := { s.params with nominalPeriod := v }
        ftu := { s.ftu with nextExpiry := s.ftu.lastBoundary + v } } : State).answered .a rest tag code (byteOf number ++ beBytes 4 v))) ∧
    (q = .nominalPeriod → s.ftu.sound →
      let written : State := { s.taken .a rest with
        params := { s.params with nominalPeriod := v }, ftu := { s.ftu with nextExpiry := s.ftu.lastBoundary + v } }
      let expired : Prop := s.ftu.lastBoundary + v ≤ s.ftu.now
      let lost : Prop := s.ftu.monitor ≠ .noReference ∧ ∃ last, s.ftu.lastPulse = some last ∧ last + 3 * v / 2 ≤ s.ftu.now
      let gone := fun (f : Ftu) => { f with monitor := .noReference, lastPulse := none }
      let fallen : State := { written with
        ftu := { gone written.ftu with current := .internal, switchPending := true }
        store := { s.store with nu := s.store.nu.addBoth .refFallback } }
      let leaves := fun (t : State) => exec .setParameter s = .next (t.answered .a rest tag code (byteOf number ++ beBytes 4 v))
      (s.ftu.current = .internal →
        (¬ expired → ¬ lost → leaves written) ∧
        (expired → ¬ lost → leaves (boundary written) ∧ (boundary written).ftu = { written.ftu with
          lastBoundary := s.ftu.now, nextExpiry := s.ftu.now + v, frameCount := s.ftu.frameCount + 1 }) ∧
        (¬ expired → lost → leaves { written with ftu := gone written.ftu }) ∧
        (expired → lost → leaves { boundary written with ftu := gone (boundary written).ftu })) ∧
      (s.ftu.current = .external →
        (¬ lost → leaves written) ∧
        (¬ expired → lost → leaves fallen) ∧
        (expired → lost → leaves (boundary fallen) ∧ (boundary fallen).ftu = { fallen.ftu with
          lastBoundary := s.ftu.now, nextExpiry := s.ftu.now + v, frameCount := s.ftu.frameCount + 1 })))) ∧
  (∀ (s : State) (tag : Byte) (rest : List Message) (number value : Nat), number < 256 → value < 2 ^ 32 →
    s.takes .a 0x01 tag (byteOf number ++ beBytes 4 value) rest →
    ((number = 0 ∨ 0x10 < number) → exec .setParameter s = .next (s.answered .a rest tag .badField [0])) ∧
    ((number = 0x04 ∨ number = 0x08 ∨ number = 0x09) → 1 < value →
      exec .setParameter s = .next (s.answered .a rest tag .badField [1])) ∧
    (number = 0x0E → s.ftu.switchPending = true → exec .setParameter s = .next (s.answered .a rest tag .busy [])))

/-- R95: a write of HEADROOM_LIMIT to a store without errors clamps the applied gains of every record in use to a lower limit at once and
recomputes its targets against the new limit; the other drift fields but the ceiling flag, and every other field, stay. R8, R97: a write of
FALLBACK_GAIN recomputes the targets of the records in use whose bank in use is the unity bank, and no others. R90: each adds CEILING
exactly where it moves the ceiling flag of some record from clear to set, and changes nothing else. -/
def Obligations.HeadroomAndFallbackWritesRecompute : Prop :=
  let kept := fun (s t : State) => t = { s with
    params := t.params, store := { s.store with records := t.store.records, nu := t.store.nu } } ∧
    s.store.nu.gains [.ceiling] t.store.nu ∧ s.addsCeiling t
  (∀ (s : State) (tag : Byte) (rest : List Message) (v : Nat), 16384 ≤ v → v ≤ 65535 → s.canonical → s.clean →
    s.takes .a 0x01 tag (byteOf 0x01 ++ beBytes 4 v) rest → ∃ t : State,
      exec .setParameter s = .next (t.answered .a rest tag .ok (byteOf 0x01 ++ beBytes 4 v)) ∧ kept s t ∧
      t.params = { s.params with headroomLimit := v } ∧ ∀ n,
        let r := s.record n
        let bank := (t.ctx.bankInUse r).2
        t.record n = if r.inUse then { r with
          applied := if v < s.params.headroomLimit then ⟨min v r.applied.r, min v r.applied.g, min v r.applied.b⟩ else r.applied
          target := targetsOf v bank r.theta r.hours
          ceiling := isLimited v bank r.theta r.hours } else r) ∧
  (∀ (s : State) (tag : Byte) (rest : List Message) (v : Nat), v ≤ 32768 → s.canonical → s.clean →
    s.takes .a 0x01 tag (byteOf 0x03 ++ beBytes 4 v) rest → ∃ t : State,
      exec .setParameter s = .next (t.answered .a rest tag .ok (byteOf 0x03 ++ beBytes 4 v)) ∧ kept s t ∧
      t.params = { s.params with fallbackGain := v } ∧ ∀ n,
        let r := s.record n
        t.record n = if r.inUse = true ∧ r.state ≠ .live ∧ batchEntryOf s.batches r.batch = none then { r with
          target := targetsOf s.params.headroomLimit (unityBank v) r.theta r.hours
          ceiling := isLimited s.params.headroomLimit (unityBank v) r.theta r.hours } else r)

/-- R180, R181: SET_ZONE stores each bound clamped to 1535 and answers the zone stored; READ_ZONES answers the four zones with their bounds
and empty markers and changes nothing else; a port that is neither A nor B is BAD_FIELD. (The items' layouts are the model's reading, log
16.) -/
def Obligations.ZonesAreStoredAndReadBack : Prop :=
  (∀ (s : State) (tag : Byte) (rest : List Message) (q : Port) (n lower upper : Nat), n ≤ 3 → lower < 65536 → upper < 65536 →
    s.takes .a 0x03 tag (byteOf q.code ++ byteOf n ++ u16 lower ++ u16 upper) rest →
    exec .setZone s = .next ((s.onPort q fun x => { x with zones := x.zones.set n ⟨min 1535 lower, min 1535 upper⟩ }).answered .a rest tag
      (if lower ≤ 1535 ∧ upper ≤ 1535 then .ok else .clamped) (u16 (min 1535 lower) ++ u16 (min 1535 upper)))) ∧
  (∀ (s : State) (tag : Byte) (rest : List Message) (port n lower upper : Nat), port < 256 → n < 256 → (1 < port ∨ 3 < n) →
    s.takes .a 0x03 tag (byteOf port ++ byteOf n ++ u16 lower ++ u16 upper) rest →
    exec .setZone s = .next (s.answered .a rest tag .badField [if 1 < port then 0 else 1])) ∧
  (∀ (s : State) (p q : Port) (tag : Byte) (rest : List Message), s.takes p 0x04 tag (byteOf q.code) rest →
    exec .readZones s = .next (s.answered p rest tag .ok
      ([(s.port q).zones.z0, (s.port q).zones.z1, (s.port q).zones.z2, (s.port q).zones.z3].flatMap fun z =>
        u16 z.lower ++ u16 z.upper ++ [if z.upper < z.lower then 1 else 0]))) ∧
  (∀ (s : State) (p : Port) (tag : Byte) (rest : List Message) (port : Nat), 1 < port → port < 256 →
    s.takes p 0x04 tag (byteOf port) rest → exec .readZones s = .next (s.answered p rest tag .badField [0]))

/-- R187 with R29, R60, R72, R99, R131, R172: WALL_RESET of a store without errors leaves every seat VACANT, the intake empty, every last
sequence 255, the snapshot withdrawn, both ports without list and set, and a load in progress abandoned, the records it created retired, for
they are then ABSENT. Every other record in use stays in use, ABSENT, unclaimed and without a temperature, its applied gains at its targets,
and keeps everything else; no other slot, no other identity and nothing else changes, but for CEILING where some ceiling flag moves from
clear to set (R90), and LOAD_ABORTED to the load's owner. It answers its four items. (The layout of the load's item is the model's reading, log 22.) -/
def Obligations.WallResetStrikesTheWall : Prop :=
  ∀ (s : State) (tag : Byte) (rest : List Message), s.canonical → s.directory → s.clean → s.takes .a 0x05 tag [] rest →
    let gone := s.load.list.filter fun n => (s.record n).createdByLoad
    ∃ t : State, exec .wallReset s = .next (t.answered .a rest tag .ok
        (u16 (s.seats.filter fun e => e.2.kind != .vacant).length ++ u16 (s.slotsWhere fun r => r.hold.isPort).length ++
          flagByte s.load.inProgress ++ u16 gone.length ++ beBytes 4 s.ftu.frameCount.toNat)) ∧
      t = { s with
        store := { s.store with records := t.store.records, nu := t.store.nu }
        index := t.index
        freeQueue := s.freeQueue ++ gone
        seats := t.seats
        trl := { t.trl with queue := [], line := s.trl.line }
        portA := { s.portA with commitList := [], scheduled := [] }
        portB := { s.portB with commitList := [], scheduled := [] }
        cd := { s.cd with withdrawn := true }
        load := if s.load.inProgress then s.load.abandoned .wallReset else s.load } ∧
      (∀ n, t.seat n = Seat.vacant) ∧ (∀ p, t.trl.last p = 255) ∧
      (∀ x, t.lookup x = if x ∈ gone.map (fun n => (s.record n).identity) then none else s.lookup x) ∧
      s.store.nu.gains [.ceiling, .loadAborted] t.store.nu ∧ s.addsCeiling t ∧
      (∀ p, s.store.nu.addsAt t.store.nu p .loadAborted (s.load.inProgress = true ∧ s.load.owner = some p)) ∧
      ∀ n, t.record n = if n ∈ gone ∨ (s.record n).inUse = false then Record.blank else
        let r := s.record n
        let bank := (s.ctx.bankInUse r).2
        { r with
          seat := none, theta := none, hold := .none, condition := .closed, pendingDamaged := false, createdByLoad := false,
          target := targetsOf s.params.headroomLimit bank none r.hours, applied := targetsOf s.params.headroomLimit bank none r.hours,
          ceiling := isLimited s.params.headroomLimit bank none r.hours }

/-! ### Records -/

/-- R3, R13, R14, R19: CREATE_RECORD of an identity the index does not hold takes the slot at the head of the Free Slot Queue, or, with none
free and AUTO_RECLAIM on, that of the eligible record of the greatest age, the lowest of equal age, which it retires, counts in RECLAIMS and
whose identity it answers. It writes the slot as R3 gives with its gains at the targets of its bank in use, enters the identity in the index
and places the record at the lowest seat that is UNRECORDED with the identity, if there is one. It adds CEILING where its recompute limits
the record (R90), and POOL_LOW where that condition begins (R16). R10, R19: CREATE_RECORD of an identity the index holds is answered EXISTS
with its slot, of identity 0 BAD_FIELD, and, with no free slot where AUTO_RECLAIM is off or no record is eligible, POOL_EMPTY. None changes
anything else. -/
def Obligations.CreateRecordCreatesOrIsRefused : Prop :=
  (∀ (s : State) (p : Port) (tag : Byte) (rest : List Message) (x batch slot : Nat) (queue : List Nat) (retired : Option Nat),
    s.canonical → s.clean → 0 < x → x < 2 ^ 48 → batch < 65536 → s.takes p 0x10 tag (beBytes 6 x ++ u16 batch) rest →
    s.lookup x = none → s.allocates slot queue retired → ∃ t : State,
      let place := unrecordedSeatOf s.seats x
      let bank := (batchBank s.batches s.params.fallbackGain batch).2
      let goal := targetsOf s.params.headroomLimit bank none 0
      let limited := isLimited s.params.headroomLimit bank none 0
      let counted := retired.elim s.store.nu fun _ => s.store.nu.count .reclaims 1
      let nu := if limited then counted.addBoth .ceiling else counted
      exec .createRecord s = .next (t.answered p rest tag .ok
        (u16 slot ++ optU16 place ++ beBytes 6 (retired.getD 0) ++ u16 queue.length)) ∧
      t = { s with index := t.index, freeQueue := queue, seats := t.seats, store := { s.store with
        records := t.store.records
        nu := if s.params.poolLowThreshold ≤ s.freeQueue.length ∧ queue.length < s.params.poolLowThreshold then nu.addBoth .poolLow else nu } } ∧
      t.record slot = { Record.blank with
        state := .new, identity := x, batch := batch, seat := place, lastSeen := s.ftu.frameCount,
        target := goal, applied := goal, ceiling := limited } ∧
      (∀ n, n ≠ slot → t.record n = s.record n) ∧
      (∀ y, t.lookup y = if y = x then some ⟨slot, batch⟩ else if some y = retired then none else s.lookup y) ∧
      (∀ n, t.seat n = if some n = place then { s.seat n with kind := .placed slot } else s.seat n)) ∧
  (∀ (s : State) (p : Port) (tag : Byte) (rest : List Message) (x batch : Nat), x < 2 ^ 48 →
    s.takes p 0x10 tag (beBytes 6 x ++ u16 batch) rest →
    (x = 0 → exec .createRecord s = .next (s.answered p rest tag .badField [0])) ∧
    (0 < x → ∀ e, s.lookup x = some e → exec .createRecord s = .next (s.answered p rest tag .exists_ (u16 e.slot))) ∧
    (0 < x → s.lookup x = none → s.allocatesNone → exec .createRecord s = .next (s.answered p rest tag .poolEmpty [])))

/-- R20, R21, R102: in a store without errors FIND_RECORD, READ_RECORD and READ_DRIFT answer the fields of the record and change nothing
else; FIND_RECORD of an identity without a record is answered NO_RECORD, and of identity 0 BAD_FIELD. R98, R148 to R154, R158: where one word of the record holds flipped bits, a READ_RECORD that does not read the word, one of the
pending bank, answers the same. A single flipped bit in a word it reads is corrected and counted in SEC, and the answer is the same. A word
with two or more is counted in DED and named in the last finding: a drift word reinitialises the drift fields; the identity word, the state
word or a word of the active bank condemns the record, SUSPECT with RECORD_SUSPECT, and recomputes a LIVE one from its batch default or the
unity bank. The two words are rebuilt, the word of the bank is left as found. The answer carries the record as it then stands; what a
damaged bank reads as stays open (log 15). Nothing else changes, but for CEILING, which a condemnation adds where it moves the ceiling flag
from clear to set, and a reinitialisation, which clears the flag first, wherever its recompute limits the record (R90). (That the bank's
index has one byte is the model's reading, log 16.) -/
def Obligations.RecordReadsAnswerTheFields : Prop :=
  (∀ (s : State) (p : Port) (tag : Byte) (rest : List Message) (x : Nat) (e : IndexEntry), s.clean → 0 < x → x < 2 ^ 48 →
    s.lookup x = some e → s.takes p 0x11 tag (beBytes 6 x) rest →
    exec .findRecord s = .next (s.answered p rest tag .ok (u16 e.slot ++ byteOf (s.record e.slot).state.code ++
      optU16 (s.record e.slot).seat ++ halfBytes (s.record e.slot).generation))) ∧
  (∀ (s : State) (p : Port) (tag : Byte) (rest : List Message) (x : Nat), 0 < x → x < 2 ^ 48 → s.lookup x = none →
    s.takes p 0x11 tag (beBytes 6 x) rest → exec .findRecord s = .next (s.answered p rest tag .noRecord [])) ∧
  (∀ (s : State) (p : Port) (tag : Byte) (rest : List Message), s.takes p 0x11 tag (beBytes 6 0) rest →
    exec .findRecord s = .next (s.answered p rest tag .badField [0])) ∧
  (∀ (s : State) (p : Port) (tag : Byte) (rest : List Message) (n : Nat), s.clean → n ≤ 2047 → (s.record n).inUse = true →
    s.takes p 0x12 tag (u16 n) rest →
    let r := s.record n
    exec .readRecord s = .next (s.answered p rest tag .ok (
      u16 n ++ byteOf r.state.code ++ beBytes 6 r.identity ++ u16 r.batch ++ optU16 r.seat ++ beBytes 4 r.lastSeen.toNat ++
      byteOf r.active.index ++ halfBytes r.generation ++ halfBytes r.bankCheck ++
      byteOf r.hold.code ++ byteOf r.condition.code ++ flagByte r.pendingDamaged ++ flagByte r.createdByLoad ++
      thetaBytes r.theta ++ beBytes 3 r.hours ++ u16 r.target.r ++ u16 r.target.g ++ u16 r.target.b ++
      u16 r.applied.r ++ u16 r.applied.g ++ u16 r.applied.b ++ flagByte r.ceiling ++ flagByte r.regressed ++
      u16 s.freeQueue.length ++ bankImage (r.bankAt r.active)))) ∧
  (∀ (s : State) (p : Port) (tag : Byte) (rest : List Message) (n : Nat), s.clean → n ≤ 2047 → (s.record n).inUse = true →
    s.takes p 0x15 tag (u16 n) rest →
    let r := s.record n
    let bank := (s.ctx.bankInUse r).2
    let step := s.params.slewStep
    let items := fun (target applied : Nat) =>
      u16 target ++ u16 applied ++ u16 ((max target applied - min target applied + step - 1) / step)
    exec .readDrift s = .next (s.answered p rest tag .ok (byteOf r.state.code ++ optU16 r.seat ++ (s.ctx.bankInUse r).1.bytes ++
      beInt 2 bank.thetaRef ++ thetaBytes r.theta ++ beInt 2 (r.theta.elim 0 fun θ => max (-160) (min 160 (θ - bank.thetaRef))) ++
      beBytes 3 r.hours ++ flagByte r.ceiling ++ flagByte r.regressed ++ items r.target.r r.applied.r ++ items r.target.g r.applied.g ++
      items r.target.b r.applied.b ++ beBytes 4 s.params.headroomLimit ++ beBytes 4 step ++ byteOf s.driftCounter))) ∧
  (∀ (s : State) (p : Port) (tag : Byte) (rest : List Message) (n : Nat) (word : ArrayWord) (bits : List Nat), s.canonical → s.directory →
    s.store.damage = [⟨n, word, bits⟩] → n ≤ 2047 → (s.record n).inUse = true → s.takes p 0x12 tag (u16 n) rest →
    let r := s.record n
    let items := fun (r : Record) =>
      u16 n ++ byteOf r.state.code ++ beBytes 6 r.identity ++ u16 r.batch ++ optU16 r.seat ++ beBytes 4 r.lastSeen.toNat ++
      byteOf r.active.index ++ halfBytes r.generation ++ halfBytes r.bankCheck ++
      byteOf r.hold.code ++ byteOf r.condition.code ++ flagByte r.pendingDamaged ++ flagByte r.createdByLoad ++
      thetaBytes r.theta ++ beBytes 3 r.hours ++ u16 r.target.r ++ u16 r.target.g ++ u16 r.target.b ++
      u16 r.applied.r ++ u16 r.applied.g ++ u16 r.applied.b ++ flagByte r.ceiling ++ flagByte r.regressed ++ u16 s.freeQueue.length
    ((∃ g i, word = .bank r.active.other g i) →
      exec .readRecord s = .next (s.answered p rest tag .ok (items r ++ bankImage (r.bankAt r.active)))) ∧
    ((∀ g i, word ≠ .bank r.active.other g i) → ∀ bit, bits = [bit] →
      exec .readRecord s = .next (({ s with store := { s.store with damage := [], nu := Nu.count .sec 1 s.store.nu } } : State).answered
        p rest tag .ok (items r ++ bankImage (r.bankAt r.active)))) ∧
    ((∀ g i, word ≠ .bank r.active.other g i) → 2 ≤ bits.length → ∃ (t : State) (image : List Byte),
      exec .readRecord s = .next (t.answered p rest tag .ok (items (t.record n) ++ image)) ∧
      t = { s with store := { s.store with
        records := t.store.records, damage := t.store.damage, finding := t.store.finding, nu := t.store.nu } } ∧
      (∀ k, k ≠ n → t.record k = s.record k) ∧
      let found := fun (loc : Location) (damage : List Damage) (kinds : List Event) =>
        t.store.finding = some ⟨s.ftu.frameCount, n, loc, .rt⟩ ∧ t.store.damage = damage ∧
        (Nu.count .ded 1 s.store.nu).gains kinds t.store.nu ∧
        ((∀ g i, word ≠ .bank r.active g i) → image = bankImage (r.bankAt r.active))
      let condemned := fun (loc : Location) (damage : List Damage) (lastSeen : FrameCount) =>
        found loc damage [.recordSuspect, .ceiling] ∧ s.store.nu.adds t.store.nu .recordSuspect True ∧ s.addsCeiling t ∧
        t.record n = { r with
          state := .suspect, lastSeen := lastSeen,
          target := if r.state = .live then targetsOf s.params.headroomLimit (s.ctx.fallbackBank r) r.theta r.hours else r.target,
          ceiling := if r.state = .live then isLimited s.params.headroomLimit (s.ctx.fallbackBank r) r.theta r.hours else r.ceiling }
      (word = .identity → condemned .identity [] r.lastSeen) ∧
      (word = .state → condemned .state [] s.ftu.frameCount) ∧
      ((∃ g i, word = .bank r.active g i) → condemned .activeBank s.store.damage r.lastSeen) ∧
      ((∃ part i, word = .drift part i) →
        let bank := (s.ctx.bankInUse r).2
        found .drift [] [.ceiling] ∧ s.store.nu.adds t.store.nu .ceiling ((t.record n).ceiling = true) ∧ t.record n = { r with
          theta := none, hours := 0, regressed := false, target := targetsOf s.params.headroomLimit bank none 0,
          applied := targetsOf s.params.headroomLimit bank none 0, ceiling := isLimited s.params.headroomLimit bank none 0 })))

/-- R18, R108: a slot operand above 2047 is BAD_FIELD and a FREE slot NO_RECORD at each of these commands; a record that the port does not
hold is NOT_HELD, or HELD with the holder, at those that need the hold. WRITE_BANK is one of them, here with a group of a valid bank, for
R111 names a bad group or value first. Nothing else changes. -/
def Obligations.SlotAndHoldRefusalsChangeNothing : Prop :=
  ∀ (s : State) (p : Port) (tag : Byte) (rest : List Message) (c : Instr) (code n : Nat) (more : List Byte), n < 65536 →
    s.takes p code tag (u16 n ++ more) rest →
    let writes : Prop := (c, code) = (.writeBank, 0x31) ∧ ∃ g values, Bank.valid values = true ∧ more = byteOf (Group.code g) ++ groupBytes values g
    (writes ∨ (c, code, more.length) ∈ [(Instr.readRecord, 0x12, 0), (.retireRecord, 0x14, 0), (.readDrift, 0x15, 0), (.openEdit, 0x30, 0),
        (.readPending, 0x32, 0), (.releaseEdit, 0x33, 0), (.commitRecord, 0x34, 2), (.groupAdd, 0x35, 2), (.groupRemove, 0x36, 0)] →
      (2047 < n → exec c s = .next (s.answered p rest tag .badField [0])) ∧
      (n ≤ 2047 → (s.record n).inUse = false → exec c s = .next (s.answered p rest tag .noRecord []))) ∧
    (writes ∨ (c, code, more.length) ∈ [(Instr.readPending, 0x32, 0), (.releaseEdit, 0x33, 0), (.commitRecord, 0x34, 2), (.groupAdd, 0x35, 2),
        (.groupRemove, 0x36, 0)] → n ≤ 2047 → (s.record n).inUse = true →
      ((s.record n).hold = .none → exec c s = .next (s.answered p rest tag .notHeld [])) ∧
      ((s.record n).hold ≠ .none → (s.record n).hold ≠ p.hold →
        exec c s = .next (s.answered p rest tag .held [BitVec.ofNat 8 (s.record n).hold.code])))

/-- R22: in a store without errors SCAN_RECORDS answers the first 16 slots at or above the starting slot whose state is in the filter, in
ascending order, the slot after the last one examined, and the free count; it changes nothing else. From a slot above 2048, or with a filter
that names no state, it is answered BAD_FIELD, and nothing else changes. (That the answer carries no count of the slots is the model's
reading, log 16.) -/
def Obligations.ScanAnswersTheFirstSixteenMatches : Prop :=
  (∀ (s : State) (p : Port) (tag : Byte) (rest : List Message) (first filter : Nat), s.clean → first ≤ 2048 → filter < 256 → filter % 16 ≠ 0 →
    s.takes p 0x13 tag (u16 first ++ byteOf filter) rest →
    let hits := (List.range' first (2048 - first)).filter fun n => inFilter filter (s.record n).state
    exec .scanRecords s = .next (s.answered p rest tag .ok ((hits.take 16).flatMap u16 ++
      u16 (if 16 ≤ hits.length then (hits.take 16).getLastD 0 + 1 else 2048) ++ u16 s.freeQueue.length))) ∧
  (∀ (s : State) (p : Port) (tag : Byte) (rest : List Message) (first filter : Nat), first < 65536 → filter < 256 →
    s.takes p 0x13 tag (u16 first ++ byteOf filter) rest →
    (2048 < first → exec .scanRecords s = .next (s.answered p rest tag .badField [0])) ∧
    (first ≤ 2048 → filter = 0 → exec .scanRecords s = .next (s.answered p rest tag .badField [2])))

/-- R4, R23: RETIRE_RECORD of a record that is ABSENT and unheld clears its slot, takes its identity out of the index and puts the slot at
the tail of the Free Slot Queue, and changes nothing else; a seated record is answered PLACED with its seat and a held one HELD, and then
nothing else changes. -/
def Obligations.RetireRecordFreesTheSlot : Prop :=
  ∀ (s : State) (p : Port) (tag : Byte) (rest : List Message) (n : Nat), s.canonical → n ≤ 2047 → (s.record n).inUse = true →
    s.takes p 0x14 tag (u16 n) rest →
    ((s.record n).hold = .none → (s.record n).seat = none → ∃ t : State, exec .retireRecord s = .next
        (t.answered p rest tag .ok (beBytes 6 (s.record n).identity ++ u16 (s.freeQueue.length + 1))) ∧
      t = { s with index := t.index, freeQueue := s.freeQueue ++ [n], store := { s.store with
        records := t.store.records, damage := s.store.damage.filter fun d => d.slot ≠ n } } ∧
      t.record n = Record.blank ∧ (∀ k, k ≠ n → t.record k = s.record k) ∧ t.lookup (s.record n).identity = none ∧
      (∀ x, x ≠ (s.record n).identity → t.lookup x = s.lookup x)) ∧
    ((s.record n).hold ≠ .none → exec .retireRecord s = .next (s.answered p rest tag .held [])) ∧
    (∀ seat, (s.record n).hold = .none → (s.record n).seat = some seat →
      exec .retireRecord s = .next (s.answered p rest tag .placed (u16 seat)))

/-- R24, R97: SET_BATCH_DEFAULT of a valid bank in a store without errors puts the bank into the code's own entry, or the lowest-numbered
empty one, answers its number and the CRC of the bank, and recomputes the targets of the records of that batch that are not LIVE. R24: with
no entry for the code and none empty it is answered LIST_FULL. R7, R24: one whose bytes are the image of no valid bank is answered
BAD_FIELD, and nothing else changes; which field it names is stated with the bank image's round trip. Nothing else changes, but for CEILING
where a recompute moves some ceiling flag from clear to set (R90). -/
def Obligations.SetBatchDefaultFillsTheEntryAndRecomputes : Prop :=
  (∀ (s : State) (tag : Byte) (rest : List Message) (batch : Nat) (bank : Bank), batch < 65536 →
    bank.valid = true → s.takes .a 0x16 tag (u16 batch ++ bankImage bank) rest →
    (batchSlotFor s.batches batch = none → exec .setBatchDefault s = .next (s.answered .a rest tag .listFull [])) ∧
    ∀ entry, s.canonical → s.clean → batchSlotFor s.batches batch = some entry → ∃ t : State,
      exec .setBatchDefault s = .next (t.answered .a rest tag .ok (byteOf entry ++ halfBytes (bankCrc bank))) ∧
      t = { s with batches := t.batches, store := { s.store with records := t.store.records, nu := t.store.nu } } ∧
      s.store.nu.gains [.ceiling] t.store.nu ∧ s.addsCeiling t ∧
      Table.get none t.batches entry = some ⟨batch, bank⟩ ∧ (∀ k, k ≠ entry → Table.get none t.batches k = Table.get none s.batches k) ∧
      (∀ n, (s.record n).batch ≠ batch ∨ (s.record n).state = .live ∨ (s.record n).state = .free → t.record n = s.record n) ∧
      ∀ n, (s.record n).batch = batch → (s.record n).state ≠ .live → (s.record n).state ≠ .free →
        t.record n = { s.record n with
          target := targetsOf s.params.headroomLimit (t.ctx.fallbackBank (s.record n)) (s.record n).theta (s.record n).hours
          ceiling := isLimited s.params.headroomLimit (t.ctx.fallbackBank (s.record n)) (s.record n).theta (s.record n).hours }) ∧
  (∀ (s : State) (tag : Byte) (rest : List Message) (batch : Nat) (image : List Byte), batch < 65536 → 39 ≤ image.length →
    s.takes .a 0x16 tag (u16 batch ++ image) rest → (∀ bank, Bank.valid bank = true → image ≠ bankImage bank) →
    ∃ field, bankFault 2 image = some field ∧ exec .setBatchDefault s = .next (s.answered .a rest tag .badField (byteOf field)))

/-- R25, R26, R97: CLEAR_BATCH_DEFAULT empties the entry that holds the code, answers its number, and recomputes the records of that batch
that are not LIVE, which adds CEILING where some ceiling flag moves from clear to set (R90); where no entry holds the code it is answered NO_RECORD. READ_BATCH_DEFAULT answers an entry, or
the empty marker (its layout is the model's reading, log 16), and changes nothing else. -/
def Obligations.BatchEntriesAreClearedAndRead : Prop :=
  (∀ (s : State) (tag : Byte) (rest : List Message) (batch n : Nat) (e : BatchEntry), s.canonical → s.clean → batch < 65536 →
    s.takes .a 0x17 tag (u16 batch) rest → batchEntryOf s.batches batch = some (n, e) → ∃ t : State,
      exec .clearBatchDefault s = .next (t.answered .a rest tag .ok (byteOf n)) ∧
      t = { s with batches := t.batches, store := { s.store with records := t.store.records, nu := t.store.nu } } ∧
      s.store.nu.gains [.ceiling] t.store.nu ∧ s.addsCeiling t ∧
      Table.get none t.batches n = none ∧ (∀ k, k ≠ n → Table.get none t.batches k = Table.get none s.batches k) ∧
      ∀ k, t.record k = if (s.record k).batch = batch ∧ (s.record k).state ≠ .live ∧ (s.record k).state ≠ .free then { s.record k with
          target := targetsOf s.params.headroomLimit (t.ctx.fallbackBank (s.record k)) (s.record k).theta (s.record k).hours
          ceiling := isLimited s.params.headroomLimit (t.ctx.fallbackBank (s.record k)) (s.record k).theta (s.record k).hours }
        else s.record k) ∧
  (∀ (s : State) (tag : Byte) (rest : List Message) (batch : Nat), batch < 65536 → s.takes .a 0x17 tag (u16 batch) rest →
    batchEntryOf s.batches batch = none → exec .clearBatchDefault s = .next (s.answered .a rest tag .noRecord [])) ∧
  (∀ (s : State) (p : Port) (tag : Byte) (rest : List Message) (n : Nat), n ≤ 15 → s.takes p 0x18 tag (byteOf n) rest →
    exec .readBatchDefault s = .next (s.answered p rest tag .ok (match Table.get none s.batches n with
      | none => [0x01]
      | some e => u16 e.batch ++ bankImage e.bank ++ halfBytes (crc16 (bankImage e.bank))))) ∧
  (∀ (s : State) (p : Port) (tag : Byte) (rest : List Message) (n : Nat), 15 < n → n < 256 → s.takes p 0x18 tag (byteOf n) rest →
    exec .readBatchDefault s = .next (s.answered p rest tag .badField [0]))

/-! ### Seats and reports -/

/-- R46: PLACE_SEAT of an ABSENT record at a seat, in a store without errors, displaces what the seat held, and leaves the seat PLACED with
the slot, MANUAL, FRESH and at 0 frames, and the record at the seat with its last seen the frame count; of a record already at the seat it
writes the entry alone (the record's last seen stays: the model's reading, log 23), and of one placed elsewhere it is answered PLACED.
R45: a seat above 1535 is answered BAD_FIELD, and so is a slot above 2047; a FREE slot is answered NO_RECORD. Nothing else changes. -/
def Obligations.PlaceSeatPlacesAnAbsentRecord : Prop :=
  (∀ (s : State) (tag : Byte) (rest : List Message) (seat n : Nat), s.canonical → s.clean → seat ≤ 1535 → n ≤ 2047 →
    (s.record n).inUse = true → s.takes .a 0x20 tag (u16 seat ++ u16 n) rest →
    ((s.record n).seat = none → (∀ k, (s.seat seat).kind = .placed k → k ≠ n) → ∃ t : State,
      exec .placeSeat s = .next (t.answered .a rest tag .ok (s.seat seat).kind.bytes) ∧
      t = { s with seats := t.seats, store := { s.store with records := t.store.records } } ∧
      t.seat seat = ⟨.placed n, .manual, .fresh, 0⟩ ∧ (∀ k, k ≠ seat → t.seat k = s.seat k) ∧
      t.record n = { s.record n with seat := some seat, lastSeen := s.ftu.frameCount } ∧
      (∀ k, (s.seat seat).kind = .placed k → t.record k = { s.record k with seat := none, theta := none }) ∧
      (∀ k, k ≠ n → (s.seat seat).kind ≠ .placed k → t.record k = s.record k)) ∧
    ((s.record n).seat = some seat → exec .placeSeat s = .next (({ s with
      seats := Table.set Seat.vacant seat ⟨.placed n, .manual, .fresh, 0⟩ s.seats } : State).answered .a rest tag .ok [0])) ∧
    (∀ k, (s.record n).seat = some k → k ≠ seat → exec .placeSeat s = .next (s.answered .a rest tag .placed (u16 k)))) ∧
  (∀ (s : State) (tag : Byte) (rest : List Message) (seat n : Nat), seat < 65536 → n < 65536 →
    s.takes .a 0x20 tag (u16 seat ++ u16 n) rest →
    (1535 < seat → exec .placeSeat s = .next (s.answered .a rest tag .badField [0])) ∧
    (seat ≤ 1535 → 2047 < n → exec .placeSeat s = .next (s.answered .a rest tag .badField [2])) ∧
    (seat ≤ 1535 → n ≤ 2047 → (s.record n).inUse = false → exec .placeSeat s = .next (s.answered .a rest tag .noRecord [])))

/-- R39, R47, R87: VACATE_SEAT, and a LOST taken without a gap, leave the seat VACANT and its occupant ABSENT without a temperature; no
other seat and no other record changes, nor anything else, in a store without errors. VACATE_SEAT answers what the seat held, and, of a seat above
1535, BAD_FIELD, and then changes nothing else (R45). R31: a LOST
taken with a gap mark does the same, and first makes every REPORTED seat of its distribution port that is not VACANT UNCONFIRMED. -/
def Obligations.VacateSeatAndLostEmptyTheSeat : Prop :=
  let emptied := fun (s t : State) (seat : Nat) =>
    t = { s with seats := t.seats, store := { s.store with records := t.store.records } } ∧
    t.seat seat = Seat.vacant ∧ (∀ k, k ≠ seat → t.seat k = s.seat k) ∧
    (∀ n, (s.seat seat).kind = .placed n → t.record n = { s.record n with seat := none, theta := none }) ∧
    (∀ n, (s.seat seat).kind ≠ .placed n → t.record n = s.record n)
  (∀ (s : State) (p : Port) (tag : Byte) (rest : List Message) (seat : Nat), s.canonical → s.clean → seat ≤ 1535 →
    s.takes p 0x21 tag (u16 seat) rest → ∃ t : State,
      exec .vacateSeat s = .next (t.answered p rest tag .ok (s.seat seat).kind.bytes) ∧ emptied s t seat) ∧
  (∀ (s : State) (p : Port) (tag : Byte) (rest : List Message) (seat : Nat), 1535 < seat → seat < 65536 → s.takes p 0x21 tag (u16 seat) rest →
    exec .vacateSeat s = .next (s.answered p rest tag .badField [0])) ∧
  (∀ (s : State) (r : Report) (queue : List Report), s.canonical → s.clean → s.trl.queue = r :: queue → r.kind = .lost → r.gap = false →
    ∃ t, exec .lost s = .next t ∧ emptied { s with trl := { s.trl with queue := queue } } t (r.distPort * 96 + r.chain)) ∧
  (∀ (s : State) (r : Report) (queue : List Report), s.canonical → s.clean → s.trl.queue = r :: queue → r.kind = .lost → r.gap = true →
    let seat := r.distPort * 96 + r.chain
    ∃ t, exec .lost s = .next t ∧
      t = { s with
        trl := { s.trl with queue := queue }, seats := t.seats, store := { s.store with records := t.store.records } } ∧
      t.seat seat = Seat.vacant ∧
      (∀ k, k ≠ seat → t.seat k =
        if k / 96 = r.distPort ∧ (s.seat k).kind ≠ .vacant ∧ (s.seat k).origin = .reported then { s.seat k with fresh := .unconfirmed }
        else s.seat k) ∧
      (∀ n, (s.seat seat).kind = .placed n → t.record n = { s.record n with seat := none, theta := none }) ∧
      (∀ n, (s.seat seat).kind ≠ .placed n → t.record n = s.record n))

/-- R50 to R53, R57: with the line idle for 16 periods, a frame sampled from TRL_DATA that carries a good report joins the tail of the
intake queue where there is room: its fields, the hours limited to 262143 and a temperature to -80..200, its check, and a gap mark exactly
where its sequence is not one more than the last of its distribution port, whose last sequence it becomes. R52, R54: samples with which one
frame ends that fails one of the five intake checks are counted in REPORTS_MALFORMED, and a good report at a full queue in REPORTS_DROPPED
with REPORT_OVERFLOW; neither changes anything else but the line, the last sequences among it. -/
def Obligations.ReportsJoinOrAreCounted : Prop :=
  (∀ (s : State) (r : Report) (raw : Int), s.canonical → s.trl.line = .between 16 → s.trl.queue.length < 64 → r.carried = true →
    ∃ t, exec (.reportArrival (frameSamples (r.bytes raw))) s = .next t ∧
      t.trl.queue = s.trl.queue ++ [{ r with
        hours := min 262143 r.hours
        kind := match r.kind with
          | .status (some reading) => .status (some (max (-80) (min 200 reading)))
          | kind => kind
        check := crc16 (r.body raw)
        gap := r.sequence != s.trl.last r.distPort + 1 }] ∧
      t.trl.last r.distPort = r.sequence ∧ (∀ q, q ≠ r.distPort → t.trl.last q = s.trl.last q) ∧ t.trl.line = s.trl.line ∧
      t.store.nu = (if r.sequence = s.trl.last r.distPort + 1 then s.store.nu
        else Nu.addBoth .reportGap (Nu.count .reportGaps 1 s.store.nu)) ∧
      t = { s with trl := t.trl, store := { s.store with nu := t.store.nu } }) ∧
  (∀ (s : State) (samples : List Bool) (frame : List Byte × Bool) (line : Line), s.trl.line.run samples = ([frame], line) →
    (frame.2 = false ∨ some frame.1.length ≠ frameLength (natAt frame.1 2 1) ∨
      crc16 (frame.1.take (frame.1.length - 2)) ≠ BitVec.ofNat 16 (natAt frame.1 (frame.1.length - 2) 2) ∨
      15 < natAt frame.1 0 1 ∨ 95 < natAt frame.1 3 1 ∨ natAt frame.1 2 1 ≠ 3 ∧ natAt frame.1 4 6 = 0) →
    exec (.reportArrival samples) s = .next { s with
      trl := { s.trl with line := line }, store := { s.store with nu := Nu.count .reportsMalformed 1 s.store.nu } }) ∧
  (∀ (s : State) (r : Report) (raw : Int), s.trl.line = .between 16 → 64 ≤ s.trl.queue.length → r.carried = true →
    exec (.reportArrival (frameSamples (r.bytes raw))) s =
      .next (s.onNu fun n => Nu.addBoth .reportOverflow (Nu.count .reportsDropped 1 n)))

/-- R35, R37, R85, R88, R91: an ANNOUNCE taken for an ABSENT record, at a VACANT seat and without a gap, in a store without errors, leaves
the seat PLACED, REPORTED, FRESH and at 0 frames, and the record at the seat, last seen now, its hours the greater of the two; where they
rise its targets are recomputed, and where they fall it is marked and counted. R30, R31, R32, R34, R37, R86, R87, R101: so does an arrival,
of an ANNOUNCE or of a STATUS that is not the seat's own occupant's, taken for a record wherever it is, whose other seat does not win a
clash, at a seat whatever it holds, with a gap or without: a gap first makes the REPORTED seats of its distribution port UNCONFIRMED; a seat
the record moves from becomes VACANT and the record's temperature INVALID; a record that the reporting seat held becomes ABSENT without a
temperature; and the temperature a STATUS carries then passes the filter, and the STATUS counts toward DRIFT_GAP where the offer changed the
temperature or the hours. R13 to R15, R36: an arrival of an identity without a record, with AUTO_CREATE on, creates it in the slot at the
head of the Free Slot Queue, or, with none free and AUTO_RECLAIM on, in that of the record which an auto-reclaim retires and counts in
RECLAIMS, and then does the same. Nothing else changes, but for DRIFT_BATCH, POOL_LOW where a creation begins that condition (R16), and
CEILING exactly where a recompute moves a ceiling flag from clear to set (R90). (What the filter does with a reading is stated with the
occupant's STATUS.) -/
def Obligations.AnnouncePlacesAnAbsentRecord : Prop :=
  (∀ (s : State) (r : Report) (queue : List Report) (e : IndexEntry), s.canonical → s.clean → s.trl.queue = r :: queue →
    r.kind = .announce → r.gap = false → s.lookup r.identity = some e → (s.record e.slot).inUse = true →
    (s.record e.slot).seat = none → (s.seat (r.distPort * 96 + r.chain)).kind = .vacant →
    let old := s.record e.slot
    let bank := (s.ctx.bankInUse old).2
    let nu := if r.hours < old.hours then s.store.nu.count .hoursRegressed 1 else s.store.nu
    ∃ t, exec .announce s = .next t ∧
      t = { s with
        trl := { s.trl with queue := queue }, seats := t.seats, store := { s.store with records := t.store.records, nu := t.store.nu } } ∧
      t.seat (r.distPort * 96 + r.chain) = ⟨.placed e.slot, .reported, .fresh, 0⟩ ∧
      (∀ k, k ≠ r.distPort * 96 + r.chain → t.seat k = s.seat k) ∧
      t.record e.slot = { old with
        seat := some (r.distPort * 96 + r.chain), lastSeen := s.ftu.frameCount, hours := max old.hours r.hours,
        regressed := old.regressed || decide (r.hours < old.hours),
        target := if old.hours < r.hours then targetsOf s.params.headroomLimit bank old.theta r.hours else old.target,
        ceiling := if old.hours < r.hours then isLimited s.params.headroomLimit bank old.theta r.hours else old.ceiling } ∧
      (∀ k, k ≠ e.slot → t.record k = s.record k) ∧ nu.gains [.ceiling] t.store.nu ∧ s.addsCeiling t) ∧
  let displaced := fun (s : State) (seat k : Nat) =>
    if (s.seat seat).kind = .placed k then { s.record k with seat := none, theta := none } else s.record k
  (∀ (s : State) (r : Report) (queue : List Report) (e : IndexEntry) (c : Instr) (reading : Option Int), s.canonical → s.directory →
    s.clean → s.trl.queue = r :: queue → s.arrives r c reading → s.lookup r.identity = some e →
    let seat := r.distPort * 96 + r.chain
    let old := s.record e.slot
    (∀ s1, old.seat = some s1 → s1 ≠ seat → (s.gapped r s1).fresh ≠ .fresh ∨ (s.gapped r s1).origin ≠ .reported) →
    let bank := (s.ctx.bankInUse old).2
    let before := if old.seat = none ∨ old.seat = some seat then old.theta else none
    let θ := reading.elim before fun x => some (filterTheta before x)
    let moved : Prop := θ ≠ before ∨ old.hours < r.hours
    let nu := if r.hours < old.hours then s.store.nu.count .hoursRegressed 1 else s.store.nu
    ∃ t, exec c s = .next t ∧
      t = { s with
        trl := { s.trl with queue := queue }, seats := t.seats, driftCounter := t.driftCounter,
        store := { s.store with records := t.store.records, nu := t.store.nu } } ∧
      t.seat seat = ⟨.placed e.slot, .reported, .fresh, 0⟩ ∧
      (∀ k, k ≠ seat → t.seat k = if old.seat = some k then Seat.vacant else s.gapped r k) ∧
      t.record e.slot = { old with
        seat := some seat, lastSeen := s.ftu.frameCount, theta := θ, hours := max old.hours r.hours,
        regressed := old.regressed || decide (r.hours < old.hours), target := (t.record e.slot).target,
        ceiling := (t.record e.slot).ceiling } ∧
      (moved → (t.record e.slot).target = targetsOf s.params.headroomLimit bank θ (max old.hours r.hours) ∧
        (t.record e.slot).ceiling = isLimited s.params.headroomLimit bank θ (max old.hours r.hours)) ∧
      (¬ moved → (t.record e.slot).target = old.target ∧ (t.record e.slot).ceiling = old.ceiling) ∧
      (∀ k, k ≠ e.slot → t.record k = displaced s seat k) ∧ s.countsOffer t (c = .status ∧ moved) nu [.ceiling] ∧ s.addsCeiling t) ∧
  (∀ (s : State) (r : Report) (queue : List Report) (slot : Nat) (more : List Nat) (retired : Option Nat) (c : Instr) (reading : Option Int),
    s.canonical → s.directory → s.clean → s.trl.queue = r :: queue → s.arrives r c reading → s.lookup r.identity = none →
    s.params.autoCreate = true → s.allocates slot more retired →
    let seat := r.distPort * 96 + r.chain
    let bank := (batchBank s.batches s.params.fallbackGain r.batch).2
    ∃ t, exec c s = .next t ∧
      t = { s with
        index := t.index, freeQueue := more, trl := { s.trl with queue := queue }, seats := t.seats, driftCounter := t.driftCounter,
        store := { s.store with records := t.store.records, nu := t.store.nu } } ∧
      t.seat seat = ⟨.placed slot, .reported, .fresh, 0⟩ ∧ (∀ k, k ≠ seat → t.seat k = s.gapped r k) ∧
      t.record slot = { Record.blank with
        state := .new, identity := r.identity, batch := r.batch, seat := some seat, lastSeen := s.ftu.frameCount, theta := reading,
        hours := r.hours, target := targetsOf s.params.headroomLimit bank reading r.hours,
        applied := targetsOf s.params.headroomLimit bank none 0, ceiling := isLimited s.params.headroomLimit bank reading r.hours } ∧
      (∀ k, k ≠ slot → t.record k = displaced s seat k) ∧
      (∀ x, t.lookup x = if x = r.identity then some ⟨slot, r.batch⟩ else if some x = retired then none else s.lookup x) ∧
      s.countsOffer t (c = .status ∧ (reading ≠ none ∨ 0 < r.hours))
        (retired.elim s.store.nu fun _ => s.store.nu.count .reclaims 1) [.ceiling, .poolLow] ∧
      s.store.nu.adds t.store.nu .ceiling (isLimited s.params.headroomLimit bank none 0 = true ∨ (t.record slot).ceiling = true) ∧
      s.store.nu.adds t.store.nu .poolLow (s.params.poolLowThreshold ≤ s.freeQueue.length ∧ more.length < s.params.poolLowThreshold))

/-- R32, R33: an ANNOUNCE of a record whose other seat is FRESH and REPORTED leaves the record there and serves the reporting seat, here
VACANT, as UNRECORDED with the record's batch, counted once in CLASHES with IDENTITY_CLASH; no record changes. R13 to R15, R30, R31, R33,
R36, R37: such an arrival at a seat whatever it holds, and one of an identity that gets no record, for AUTO_CREATE is off, or no slot is free
and AUTO_RECLAIM is off or no record is eligible, displaces what the seat held and serves it as UNRECORDED, be it of an ANNOUNCE or of a STATUS that is not the seat's
own occupant's, whose temperature then changes nothing; a gap first makes the REPORTED seats of its distribution port UNCONFIRMED. It is
counted, in CLASHES or in UNRECORDED_ARRIVALS with UNRECORDED_ARRIVAL, where the seat was not UNRECORDED with the identity before. Nothing
else changes. -/
def Obligations.IdentityClashKeepsTheFreshSeat : Prop :=
  (∀ (s : State) (r : Report) (queue : List Report) (e : IndexEntry) (s1 : Nat), s.canonical → s.trl.queue = r :: queue →
    r.kind = .announce → r.gap = false → s.lookup r.identity = some e → (s.record e.slot).seat = some s1 →
    s1 ≠ r.distPort * 96 + r.chain → (s.seat s1).fresh = .fresh → (s.seat s1).origin = .reported →
    (s.seat (r.distPort * 96 + r.chain)).kind = .vacant →
    exec .announce s = .next { s with
      trl := { s.trl with queue := queue }
      seats := Table.set Seat.vacant (r.distPort * 96 + r.chain)
        ⟨.unrecorded r.identity (s.record e.slot).batch, .reported, .fresh, 0⟩ s.seats
      store := { s.store with nu := Nu.addBoth .identityClash (Nu.count .clashes 1 s.store.nu) } }) ∧
  (∀ (s : State) (r : Report) (queue : List Report) (batch : Nat) (counter : Counter) (event : Event) (c : Instr) (reading : Option Int),
    s.canonical → s.directory → s.clean → s.trl.queue = r :: queue → s.arrives r c reading →
    let seat := r.distPort * 96 + r.chain
    (counter = .clashes ∧ event = .identityClash ∧ (∃ e s1, s.lookup r.identity = some e ∧ batch = (s.record e.slot).batch ∧
        (s.record e.slot).seat = some s1 ∧ s1 ≠ seat ∧ (s.gapped r s1).fresh = .fresh ∧ (s.gapped r s1).origin = .reported) ∨
      counter = .unrecordedArrivals ∧ event = .unrecordedArrival ∧ s.lookup r.identity = none ∧ batch = r.batch ∧
        (s.params.autoCreate = false ∨ s.allocatesNone)) →
    ∃ t, exec c s = .next t ∧
      t = { s with
        trl := { s.trl with queue := queue }, seats := t.seats, store := { s.store with records := t.store.records, nu := t.store.nu } } ∧
      t.seat seat = ⟨.unrecorded r.identity batch, .reported, .fresh, 0⟩ ∧ (∀ k, k ≠ seat → t.seat k = s.gapped r k) ∧
      (∀ k, t.record k = if (s.seat seat).kind = .placed k then { s.record k with seat := none, theta := none } else s.record k) ∧
      ((∃ b, (s.seat seat).kind = .unrecorded r.identity b) → t.store.nu = s.store.nu) ∧
      ((∀ b, (s.seat seat).kind ≠ .unrecorded r.identity b) → t.store.nu = Nu.addBoth event (Nu.count counter 1 s.store.nu)))

/-- R38, R86, R88, R91, R101: a STATUS from the seat's occupant, in a store without errors, confirms the seat, moves the filtered
temperature toward the reading by a quarter of the distance, truncated, and by at least one, keeps the greater hours, recomputes the targets
where either changed, and then counts toward DRIFT_GAP. Without a temperature it leaves the filtered temperature as it is, and with one onto
an INVALID filter it sets it to the reading. R31: taken with a gap mark it first makes the other REPORTED seats of its distribution port
UNCONFIRMED, and its own seat is FRESH all the same. R90: a recompute that moves the ceiling flag from clear to set adds CEILING to both
ports; one that finds it set, or clears it, adds nothing. Nothing else changes, but for DRIFT_BATCH. -/
def Obligations.StatusConfirmsTheSeatAndFeedsTheFilter : Prop :=
  (∀ (s : State) (r : Report) (queue : List Report) (n : Nat) (reading θ : Int), s.canonical → s.clean → s.trl.queue = r :: queue →
    r.kind = .status (some reading) → (s.seat (r.distPort * 96 + r.chain)).kind = .placed n →
    (s.record n).identity = r.identity → (s.record n).inUse = true → (s.record n).theta = some θ →
    let old := s.record n
    let bank := (s.ctx.bankInUse old).2
    let nu := if r.hours < old.hours then s.store.nu.count .hoursRegressed 1 else s.store.nu
    ∃ t θ', exec .status s = .next t ∧
      let moved : Prop := θ' ≠ θ ∨ old.hours < r.hours
      t = { s with
        trl := { s.trl with queue := queue }, seats := t.seats, driftCounter := t.driftCounter,
        store := { s.store with records := t.store.records, nu := t.store.nu } } ∧
      t.seat (r.distPort * 96 + r.chain) = ⟨.placed n, .reported, .fresh, 0⟩ ∧
      (∀ k, k ≠ r.distPort * 96 + r.chain → t.seat k = s.gapped r k) ∧ (∀ k, k ≠ n → t.record k = s.record k) ∧
      t.record n = { old with
        theta := some θ', lastSeen := s.ftu.frameCount, hours := max old.hours r.hours,
        regressed := old.regressed || decide (r.hours < old.hours), target := (t.record n).target, ceiling := (t.record n).ceiling } ∧
      (reading = θ → θ' = θ) ∧
      (4 ≤ reading - θ → 4 * (θ' - θ) ≤ reading - θ ∧ reading - θ < 4 * (θ' - θ) + 4) ∧
      (4 ≤ θ - reading → 4 * (θ - θ') ≤ θ - reading ∧ θ - reading < 4 * (θ - θ') + 4) ∧
      (0 < reading - θ → reading - θ < 4 → θ' = θ + 1) ∧ (0 < θ - reading → θ - reading < 4 → θ' = θ - 1) ∧
      (moved → (t.record n).target = targetsOf s.params.headroomLimit bank (some θ') (max old.hours r.hours) ∧
        (t.record n).ceiling = isLimited s.params.headroomLimit bank (some θ') (max old.hours r.hours)) ∧
      (¬ moved → (t.record n).target = old.target ∧ (t.record n).ceiling = old.ceiling) ∧
      s.countsOffer t moved nu [.ceiling] ∧ s.addsCeiling t) ∧
  (∀ (s : State) (r : Report) (queue : List Report) (n : Nat) (temperature : Option Int), s.canonical → s.clean → s.trl.queue = r :: queue →
    r.kind = .status temperature → (s.seat (r.distPort * 96 + r.chain)).kind = .placed n →
    (s.record n).identity = r.identity → (s.record n).inUse = true → temperature = none ∨ (s.record n).theta = none →
    let old := s.record n
    let bank := (s.ctx.bankInUse old).2
    let θ := if temperature = none then old.theta else temperature
    let hours := max old.hours r.hours
    let moved : Prop := temperature ≠ none ∨ old.hours < r.hours
    let nu := if r.hours < old.hours then s.store.nu.count .hoursRegressed 1 else s.store.nu
    ∃ t, exec .status s = .next t ∧
      t = { s with
        trl := { s.trl with queue := queue }, seats := t.seats, driftCounter := t.driftCounter,
        store := { s.store with records := t.store.records, nu := t.store.nu } } ∧
      t.seat (r.distPort * 96 + r.chain) = ⟨.placed n, .reported, .fresh, 0⟩ ∧
      (∀ k, k ≠ r.distPort * 96 + r.chain → t.seat k = s.gapped r k) ∧ (∀ k, k ≠ n → t.record k = s.record k) ∧
      (moved → t.record n = { old with
        theta := θ, lastSeen := s.ftu.frameCount, hours := hours, regressed := old.regressed || decide (r.hours < old.hours),
        target := targetsOf s.params.headroomLimit bank θ hours, ceiling := isLimited s.params.headroomLimit bank θ hours }) ∧
      (¬ moved → t.record n = { old with
        lastSeen := s.ftu.frameCount, regressed := old.regressed || decide (r.hours < old.hours) }) ∧
      s.countsOffer t moved nu [.ceiling] ∧ s.addsCeiling t)

/-- R42: the check that a boundary's ageing makes due turns every FRESH, REPORTED seat that is not VACANT and whose frames-since has reached
STATUS_TIMEOUT STALE, adds SEAT_STALE to both ports where one does, and changes nothing else. (That the check stands due in a field is the
model's choice, log 8.) -/
def Obligations.DueSeatsTurnStale : Prop :=
  ∀ s : State, s.canonical → s.seatCheckDue = true → ∃ t, exec .seatStale s = .next t ∧
    let due := fun (e : Seat) => e.kind ≠ .vacant ∧ e.origin = .reported ∧ e.fresh = .fresh ∧ s.params.statusTimeout ≠ 0 ∧
      s.params.statusTimeout ≤ e.since
    (∀ n, (due (s.seat n) → t.seat n = { s.seat n with fresh := .stale }) ∧ (¬ due (s.seat n) → t.seat n = s.seat n)) ∧
    ((∃ n, due (s.seat n)) → t.store.nu = Nu.addBoth .seatStale s.store.nu) ∧
    ((∀ n, ¬ due (s.seat n)) → t.store.nu = s.store.nu) ∧
    t = { s with seats := t.seats, seatCheckDue := false, store := { s.store with nu := t.store.nu } }

/-! ### Edits and commits -/

/-- R109, R110: OPEN_EDIT of an unheld record that passes the zone check, in a store without errors, takes the hold, fills the pending bank
from the source the record's state gives, clears pending damaged and starts the timer; nothing else changes. R109, R114: OPEN_EDIT of a held
record is answered HELD with the holder and the condition, and of a record outside the port's zones ZONE; nothing else changes. (That the
bank's index has one byte is the model's reading, log 16.) -/
def Obligations.OpenEditFillsThePendingBankOrIsRefused : Prop :=
  (∀ (s : State) (p : Port) (tag : Byte) (rest : List Message) (n : Nat), s.clean → n ≤ 2047 → (s.record n).inUse = true →
    s.takes p 0x30 tag (u16 n) rest → (s.record n).hold = .none → s.zonePass p (s.record n).seat = true →
    let r := s.record n
    let source : BankSource × Bank := match r.state with
      | .live => (.active r.active, r.bankAt r.active)
      | .new => batchBank s.batches s.params.fallbackGain r.batch
      | _ => (.unity, unityBank s.params.fallbackGain)
    let opened := { r.setBank r.pendingIx source.2 with
      hold := p.hold, condition := .opened, pendingDamaged := false, holdTimer := s.params.holdTimeout }
    ∃ t : State, exec .openEdit s = .next (t.answered p rest tag .ok (byteOf r.pendingIx.index ++ byteOf r.state.code ++
        halfBytes r.generation ++ source.1.bytes ++ halfBytes (bankCrc source.2))) ∧
      t = { s with store := { s.store with records := t.store.records } } ∧
      (s.canonical → t.record n = opened) ∧ ∀ k, k ≠ n → t.record k = s.record k) ∧
  (∀ (s : State) (p : Port) (tag : Byte) (rest : List Message) (n : Nat), n ≤ 2047 → (s.record n).inUse = true →
    s.takes p 0x30 tag (u16 n) rest →
    ((s.record n).hold ≠ .none → exec .openEdit s = .next (s.answered p rest tag .held
      [BitVec.ofNat 8 (s.record n).hold.code, BitVec.ofNat 8 (s.record n).condition.code])) ∧
    (∀ seat, (s.record n).hold = .none → (s.record n).seat = some seat →
      s.outsideZones p seat → exec .openEdit s = .next (s.answered p rest tag .zone [])))

/-- R111: WRITE_BANK of a valid bank's group into an OPEN pending bank, in a store without errors, replaces that group alone, reloads the
timer and answers the CRC of the bank as it then stands with the damage flag; nothing else changes. R111: one of a slot above 2047, of a
group that is none of the five, or of values that are no valid bank's is answered BAD_FIELD naming the first field at fault: the slot, the
group, the number of values (by the payload's length, before a fault in one of them: the model's reading, log 17), θref, or a trim's edge,
width or factor (which of these is stated with the bank image's round trip). Then nothing else changes. -/
def Obligations.WriteBankReplacesOneGroup : Prop :=
  (∀ (s : State) (p : Port) (tag : Byte) (rest : List Message) (n : Nat) (g : Group) (values : Bank), s.canonical → s.clean →
    n ≤ 2047 → values.valid = true →
    s.takes p 0x31 tag (u16 n ++ byteOf (Group.code g) ++ groupBytes values g) rest → (s.record n).inUse = true →
    (s.record n).hold = p.hold → (s.record n).condition = .opened → s.zonePass p (s.record n).seat = true →
    let bank := (s.record n).pendingBank.copyGroup values g
    exec .writeBank s = .next ((s.modify n fun r => { r.setBank r.pendingIx bank with holdTimer := s.params.holdTimeout }).answered
      p rest tag .ok (halfBytes (bankCrc bank) ++ flagByte (s.record n).pendingDamaged))) ∧
  (∀ (s : State) (p : Port) (tag : Byte) (rest : List Message) (n group : Nat) (values : List Byte), n < 65536 → group < 256 →
    s.takes p 0x31 tag (u16 n ++ byteOf group ++ values) rest →
    let refused := fun (field : Nat) => exec .writeBank s = .next (s.answered p rest tag .badField (byteOf field))
    (2047 < n → refused 0) ∧ (n ≤ 2047 → 4 < group → refused 2) ∧
    ∀ g : Group, n ≤ 2047 → group = g.code → (∀ bank, Bank.valid bank = true → values ≠ groupBytes bank g) →
      (∃ field, groupFault g 3 values = some field ∧ refused field) ∧
      (g = .matrix → refused 0xFF) ∧ (g = .gains → refused 0xFF) ∧ (g = .aging → refused 0xFF) ∧
      (g = .thermal → if values.length = 8 then refused 3 else refused 0xFF) ∧
      (g = .trims → if values.length ∈ [0, 4, 8, 12, 16] then ∃ field, trimFault [] 3 values = some field ∧ refused field else refused 0xFF))

/-- R111, R113, R115, R118, R119, R129: WRITE_BANK and COMMIT_RECORD of a FROZEN record are answered FROZEN and of a SCHEDULED one BUSY;
RELEASE_EDIT, GROUP_REMOVE, and GROUP_ADD of a slot that is not in the port's list, of a SCHEDULED one are answered BUSY. R114: WRITE_BANK,
COMMIT_RECORD, and GROUP_ADD of a slot that is not in the port's list, of an OPEN record whose seat lies outside the port's zones are
answered ZONE. Nothing else changes. -/
def Obligations.FrozenAndScheduledBanksCannotBeWritten : Prop :=
  ∀ (s : State) (p : Port) (tag : Byte) (rest : List Message) (n : Nat) (more : List Byte) (c : Instr) (code : Nat), n ≤ 2047 →
    (s.record n).inUse = true → (s.record n).hold = p.hold → s.takes p code tag (u16 n ++ more) rest →
    let changes : Prop := (c, code, more.length) = (.commitRecord, 0x34, 2) ∨
      ((c, code) = (.writeBank, 0x31) ∧ ∃ g values, Bank.valid values = true ∧ more = byteOf (Group.code g) ++ groupBytes values g)
    let lists : Prop := (c, code, more.length) = (.groupAdd, 0x35, 2) ∧ n ∉ (s.port p).commitList
    (changes → (s.record n).condition = .frozen → exec c s = .next (s.answered p rest tag .frozen [])) ∧
    (changes ∨ lists ∨ (c, code, more) = (.releaseEdit, 0x33, []) ∨ (c, code, more) = (.groupRemove, 0x36, []) →
      (s.record n).condition = .scheduled → exec c s = .next (s.answered p rest tag .busy [])) ∧
    (∀ seat, changes ∨ lists → (s.record n).condition = .opened → (s.record n).seat = some seat → s.outsideZones p seat →
      exec c s = .next (s.answered p rest tag .zone []))

/-- R112, R126: in a store without errors READ_PENDING answers the edit and the pending bank with its CRC, and QUERY_COMMIT the port's
outcome, its last expiry and the extent of its work; neither changes anything else. (That the position is carried only while FROZEN, and
that the bank's index has one byte, is the model's reading, log 16; the frame and the count of an absent expiry stay open, log 18.) -/
def Obligations.PendingBankAndOutcomeAreRead : Prop :=
  (∀ (s : State) (p : Port) (tag : Byte) (rest : List Message) (n : Nat), s.clean → n ≤ 2047 → (s.record n).inUse = true →
    s.takes p 0x32 tag (u16 n) rest → (s.record n).hold = p.hold →
    let r := s.record n
    exec .readPending s = .next (s.answered p rest tag .ok (byteOf r.hold.code ++ byteOf r.condition.code ++ u16 r.holdTimer ++
      (if r.condition = .frozen then byteOf ((positionOf n (s.port p).commitList).getD 0) else []) ++ flagByte r.pendingDamaged ++
      byteOf r.pendingIx.index ++ bankImage r.pendingBank ++ halfBytes (crc16 (bankImage r.pendingBank))))) ∧
  (∀ (s : State) (p : Port) (tag : Byte) (rest : List Message) (e : Expiry), s.takes p 0x39 tag [] rest → (s.port p).expiry = some e →
    exec .queryCommit s = .next (s.answered p rest tag .ok (beBytes 4 (s.port p).outcome.frame.toNat ++ u16 (s.port p).outcome.committed ++
      u16 (s.port p).outcome.failed ++ optU16 (s.port p).outcome.firstFailed ++ beBytes 4 e.frame.toNat ++ u16 e.count ++ u16 e.lowest ++
      u16 (s.port p).commitList.length ++ u16 (s.port p).scheduled.length ++
      u16 ((s.slotsWhere fun r => r.hold == p.hold && r.condition == .opened).length)))) ∧
  (∀ (s : State) (p : Port) (tag : Byte) (rest : List Message), s.takes p 0x39 tag [] rest → (s.port p).expiry = none →
    ∃ absent : List Byte, absent.length = 6 ∧
      exec .queryCommit s = .next (s.answered p rest tag .ok (beBytes 4 (s.port p).outcome.frame.toNat ++ u16 (s.port p).outcome.committed ++
        u16 (s.port p).outcome.failed ++ optU16 (s.port p).outcome.firstFailed ++ absent ++ u16 0xFFFF ++
        u16 (s.port p).commitList.length ++ u16 (s.port p).scheduled.length ++
        u16 ((s.slotsWhere fun r => r.hold == p.hold && r.condition == .opened).length))))

/-- R105, R113: RELEASE_EDIT of an OPEN or FROZEN record ends every claim on its pending bank: hold NONE, CLOSED, not damaged, in no list
and no set; the banks, every other record and everything else stay. -/
def Obligations.ReleaseEditEndsEveryClaim : Prop :=
  ∀ (s : State) (p : Port) (tag : Byte) (rest : List Message) (n : Nat), s.canonical → n ≤ 2047 → (s.record n).inUse = true →
    s.takes p 0x33 tag (u16 n) rest → (s.record n).hold = p.hold → (s.record n).condition ≠ .scheduled →
    ∃ t : State, exec .releaseEdit s = .next (t.answered p rest tag .ok [BitVec.ofNat 8 (s.record n).condition.code]) ∧
      t = { s with
        store := { s.store with records := t.store.records }
        portA := { s.portA with
          commitList := s.portA.commitList.filter (· ≠ n), scheduled := s.portA.scheduled.filter (· ≠ n) }
        portB := { s.portB with
          commitList := s.portB.commitList.filter (· ≠ n), scheduled := s.portB.scheduled.filter (· ≠ n) }
        load := { s.load with scheduled := s.load.scheduled.filter (· ≠ n) } } ∧
      t.record n = (s.record n).unclaimed ∧ ∀ k, k ≠ n → t.record k = s.record k

/-- R115: COMMIT_RECORD of an OPEN undamaged bank, in a store without errors, schedules it where its CRC is the expected one, keeps that CRC
and answers the next frame count; where it is not, the answer is CHECK with the CRC and nothing else changes. R149, R150, R153: where one
word of the pending bank holds a single flipped bit, it is corrected and counted in SEC, and the command does the same; where it holds more,
it is counted in DED, the finding names the pending bank, pending damaged is set and the answer is CHECK with the flag; the word is left as
found, and nothing else changes. What CRC the damaged bank then has stays open (log 15). -/
def Obligations.CommitRecordSchedulesOnAMatchingCrc : Prop :=
  (∀ (s : State) (p : Port) (tag : Byte) (rest : List Message) (n : Nat) (crc : Half), s.canonical → s.clean → n ≤ 2047 →
    (s.record n).inUse = true → s.takes p 0x34 tag (u16 n ++ halfBytes crc) rest → (s.record n).hold = p.hold →
    (s.record n).condition = .opened → s.zonePass p (s.record n).seat = true → (s.record n).pendingDamaged = false →
    (bankCrc (s.record n).pendingBank = crc → exec .commitRecord s = .next
      (((s.modify n fun r => { r with condition := .scheduled, expectedCrc := crc }).onPort p fun q =>
        { q with scheduled := insertNat n q.scheduled }).answered p rest tag .ok (beBytes 4 (s.ftu.frameCount + 1).toNat))) ∧
    (bankCrc (s.record n).pendingBank ≠ crc → exec .commitRecord s = .next
      (s.answered p rest tag .check (halfBytes (bankCrc (s.record n).pendingBank) ++ [0])))) ∧
  (∀ (s : State) (p : Port) (tag : Byte) (rest : List Message) (n : Nat) (crc : Half) (g : Group) (i : Nat) (bits : List Nat), s.canonical →
    s.store.damage = [⟨n, .bank (s.record n).active.other g i, bits⟩] → n ≤ 2047 →
    (s.record n).inUse = true → s.takes p 0x34 tag (u16 n ++ halfBytes crc) rest → (s.record n).hold = p.hold →
    (s.record n).condition = .opened → s.zonePass p (s.record n).seat = true →
    (∀ bit, bits = [bit] → (s.record n).pendingDamaged = false → bankCrc (s.record n).pendingBank = crc → exec .commitRecord s = .next
      (((({ s with store := { s.store with damage := [], nu := Nu.count .sec 1 s.store.nu } } : State).modify n fun r =>
        { r with condition := .scheduled, expectedCrc := crc }).onPort p fun q =>
          { q with scheduled := insertNat n q.scheduled }).answered p rest tag .ok (beBytes 4 (s.ftu.frameCount + 1).toNat))) ∧
    (2 ≤ bits.length → ∃ (t : State) (found : Half),
      exec .commitRecord s = .next (t.answered p rest tag .check (halfBytes found ++ [1])) ∧
      t = { s with store := { s.store with
        records := t.store.records, finding := some ⟨s.ftu.frameCount, n, .pendingBank, .cu⟩, nu := Nu.count .ded 1 s.store.nu } } ∧
      t.record n = { s.record n with pendingDamaged := true } ∧ ∀ k, k ≠ n → t.record k = s.record k))

/-- R118, R119: GROUP_ADD of an OPEN undamaged bank with its CRC, in a store without errors, freezes it at the tail of the list, answers
LIST_FULL at 64 slots and the position of a slot already listed; of a damaged bank, or with another CRC, it is answered CHECK with the
bank's CRC, and nothing else changes, the record OPEN still. GROUP_REMOVE reopens a listed record and takes it out of the list. (The
marker's layout is the model's reading, log 16.) -/
def Obligations.GroupAddAndRemoveKeepTheCommitList : Prop :=
  ∀ (s : State) (p : Port) (tag : Byte) (rest : List Message) (n : Nat), s.canonical → s.clean → n ≤ 2047 → (s.record n).inUse = true →
    (s.record n).hold = p.hold →
    (∀ crc, s.takes p 0x35 tag (u16 n ++ halfBytes crc) rest →
      (∀ k, positionOf n (s.port p).commitList = some k →
        exec .groupAdd s = .next (s.answered p rest tag .ok [1, BitVec.ofNat 8 k])) ∧
      (n ∉ (s.port p).commitList → (s.record n).condition = .opened → s.zonePass p (s.record n).seat = true →
        (64 ≤ (s.port p).commitList.length → exec .groupAdd s = .next (s.answered p rest tag .listFull [])) ∧
        ((s.port p).commitList.length < 64 → (s.record n).pendingDamaged = false → bankCrc (s.record n).pendingBank = crc →
          exec .groupAdd s = .next (((s.modify n fun r => { r with
              condition := .frozen, expectedCrc := crc, holdTimer := s.params.holdTimeout }).onPort p fun q =>
                { q with commitList := q.commitList ++ [n] }).answered p rest tag .ok
            (byteOf (s.port p).commitList.length ++ u16 ((s.port p).commitList.length + 1)))) ∧
        ((s.port p).commitList.length < 64 → (s.record n).pendingDamaged = true ∨ bankCrc (s.record n).pendingBank ≠ crc →
          exec .groupAdd s = .next (s.answered p rest tag .check (halfBytes (bankCrc (s.record n).pendingBank)))))) ∧
    (s.takes p 0x36 tag (u16 n) rest → (s.record n).condition ≠ .scheduled →
      (n ∈ (s.port p).commitList → exec .groupRemove s = .next (((s.modify n fun r => { r with
          condition := .opened, holdTimer := s.params.holdTimeout }).onPort p fun q =>
            { q with commitList := q.commitList.filter (· ≠ n) }).answered p rest tag .ok
        (u16 ((s.port p).commitList.filter (· ≠ n)).length))) ∧
      (n ∉ (s.port p).commitList → exec .groupRemove s = .next (s.answered p rest tag .ok [1])))

/-- R120, R121: GROUP_CLEAR reopens every listed record with its timer set again; GROUP_COMMIT schedules every listed record, or, where one
lies outside the port's zones, is answered ZONE with the first of them and changes nothing else. Both empty the list, and change nothing
else. -/
def Obligations.GroupClearAndCommitEmptyTheList : Prop :=
  ∀ (s : State) (p : Port) (tag : Byte) (rest : List Message), s.canonical →
    (s.takes p 0x37 tag [] rest → ∃ t : State,
      exec .groupClear s = .next (t.answered p rest tag .ok (u16 (s.port p).commitList.length)) ∧
      t = ({ s with store := { s.store with records := t.store.records } } : State).onPort p (fun q => { q with commitList := [] }) ∧
      (∀ n ∈ (s.port p).commitList, t.record n = { s.record n with condition := .opened, holdTimer := s.params.holdTimeout }) ∧
      (∀ n, n ∉ (s.port p).commitList → t.record n = s.record n)) ∧
    (s.takes p 0x38 tag [] rest →
      ((∀ n ∈ (s.port p).commitList, s.zonePass p (s.record n).seat = true) → ∃ t : State,
        exec .groupCommit s = .next (t.answered p rest tag .ok
          (u16 (s.port p).commitList.length ++ beBytes 4 (s.ftu.frameCount + 1).toNat)) ∧
        t = ({ s with store := { s.store with records := t.store.records } } : State).onPort p
          (fun q => { q with commitList := [], scheduled := (t.port p).scheduled }) ∧
        (∀ n ∈ (s.port p).commitList, t.record n = { s.record n with condition := .scheduled }) ∧
        (∀ n, n ∉ (s.port p).commitList → t.record n = s.record n) ∧
        (∀ n, n ∈ (t.port p).scheduled ↔ n ∈ (s.port p).scheduled ∨ n ∈ (s.port p).commitList)) ∧
      (∀ front n back, (s.port p).commitList = front ++ n :: back → (∀ k ∈ front, s.zonePass p (s.record k).seat = true) →
        s.zonePass p (s.record n).seat = false → exec .groupCommit s = .next (s.answered p rest tag .zone (u16 n))))

/-- R42, R105 to R107, R122 to R125, R165, R166: an INTERNAL_EXPIRY that is a boundary, in a store without errors, applies every scheduled
record: with pending damaged clear the banks exchange roles, the generation rises by 1 with wrapping, the bank check becomes the expected
CRC, the record is LIVE with its applied gains at the targets of the bank now active (R5, R93), CEILING added where its ceiling flag moves from clear to set (R90),
and its claim ends; with it set the claim
ends alone. A port's set that was not empty gives its outcome and COMMIT_DONE. Every running hold timer falls by 1, and at 0 the claim ends,
with the port's last expiry and HOLD_EXPIRED. A COMMITTING load is DONE with its counts and LOAD_DONE; an ACTIVE one's timer falls by 1, and
at 0 the load is abandoned with TIMEOUT and LOAD_ABORTED. Every record but a committed or retired one is also slewed (R92). Lists, sets,
loads, identities and free slots change only so. R155: a SUSPECT record whose active bank holds a damaged word is LIVE after its commit, the
word left as it is, where the boundary does not scrub it. -/
def Obligations.CommitTakesEffectOrIsDropped : Prop :=
  let committed := fun (s : State) (r : Record) =>
    let bank := r.bankAt r.active.other
    { r with
      active := r.active.other, generation := r.generation + 1, bankCheck := r.expectedCrc, state := .live,
      target := targetsOf s.params.headroomLimit bank r.theta r.hours, applied := targetsOf s.params.headroomLimit bank r.theta r.hours,
      ceiling := isLimited s.params.headroomLimit bank r.theta r.hours, hold := .none, condition := .closed, createdByLoad := false }
  (∀ s : State, s.canonical → s.directory → s.clean → s.expiryDue → ∃ t, exec .internalExpiry s = .next t ∧
    let toward := fun (applied target : Nat) =>
      if applied ≤ target then min target (applied + s.params.slewStep) else max target (applied - s.params.slewStep)
    let slewed := fun (r : Record) => { r with applied :=
      ⟨toward r.applied.r r.target.r, toward r.applied.g r.target.g, toward r.applied.b r.target.b⟩ }
    let added := s.store.nu.addsAt t.store.nu
    let expiring := fun (p : Port) => s.slotsWhere fun r => r.timerRuns && r.hold == p.hold && decide (r.holdTimer ≤ 1)
    let timedOut : Prop := s.load.state = .active ∧ s.load.timer ≤ 1
    let dropped := fun (scheduled : List Nat) => scheduled.filter fun n => (s.record n).pendingDamaged
    (∀ n, n ∈ s.portA.scheduled ∨ n ∈ s.portB.scheduled ∨ n ∈ s.load.scheduled → t.record n =
      if (s.record n).pendingDamaged then slewed { (s.record n).unclaimed with createdByLoad := false } else committed s (s.record n)) ∧
    (∀ n, (s.record n).timerRuns = true → t.record n =
      if (s.record n).holdTimer ≤ 1 then slewed { (s.record n).unclaimed with holdTimer := 0 }
      else slewed { s.record n with holdTimer := (s.record n).holdTimer - 1 }) ∧
    (∀ p, t.port p = { s.port p with
        outcome := if (s.port p).scheduled = [] then (s.port p).outcome else
          ⟨s.ftu.frameCount + 1, (s.port p).scheduled.length - (dropped (s.port p).scheduled).length,
            (dropped (s.port p).scheduled).length, (dropped (s.port p).scheduled).head?⟩
        expiry := match (expiring p).head? with
          | none => (s.port p).expiry
          | some lowest => some ⟨s.ftu.frameCount + 1, (expiring p).length, lowest⟩
        commitList := (s.port p).commitList.filter (· ∉ expiring p)
        scheduled := [] } ∧
      added p .commitDone ((s.port p).scheduled ≠ []) ∧ added p .holdExpired (expiring p ≠ []) ∧
      added p .loadDone (s.load.state = .committing ∧ s.load.owner = some p) ∧
      added p .loadAborted (timedOut ∧ s.load.owner = some p)) ∧
    (s.load.state = .committing → t.load = { s.load with
      state := .done, committed := s.load.scheduled.length - (dropped s.load.scheduled).length,
      failed := (dropped s.load.scheduled).length, firstFailed := (dropped s.load.scheduled).head?,
      count := s.load.list.length, list := [], scheduled := [] }) ∧
    (timedOut → ({ s with load := { s.load with timer := 0 } } : State).abandons t .timeout slewed) ∧
    (s.load.state = .active → 1 < s.load.timer → t.load = { s.load with timer := s.load.timer - 1 } ∧
      ∀ n ∈ s.load.list, t.record n = slewed (s.record n)) ∧
    (s.load.state ≠ .active → s.load.state ≠ .committing → t.load = s.load) ∧
    (¬ timedOut → t.index = s.index ∧ t.freeQueue = s.freeQueue) ∧
    t.store.damage = [] ∧ t.store.finding = s.store.finding ∧
    s.store.nu.gains [.commitDone, .holdExpired, .loadDone, .loadAborted, .ceiling, .seatStale] t.store.nu ∧ s.addsCeiling t) ∧
  (∀ (s : State) (p : Port) (n i : Nat) (g : Group) (bits : List Nat), s.canonical → s.directory → s.expiryDue →
    s.store.damage = [⟨n, .bank (s.record n).active g i, bits⟩] → 2 ≤ bits.length → (s.record n).state = .suspect →
    n ∈ (s.port p).scheduled → (s.record n).pendingDamaged = false → s.cursor < 2048 →
    s.params.scrubRate ≤ (n + 2048 - s.cursor) % 2048 →
    ∃ t, exec .internalExpiry s = .next t ∧ t.record n = committed s (s.record n) ∧ t.store.damage = s.store.damage)

/-- R105, R107: every OPEN or FROZEN hold of a port whose timer stands at 0 expires: its claim ends, the port's last expiry takes the frame
count, the number and the lowest slot, and HOLD_EXPIRED is added to that port; records whose hold does not expire stay, and so does
everything else. (That the check has a row of its own, beside the boundary that takes it within its step, is log 8.) -/
def Obligations.ExpiredHoldsAreDiscarded : Prop :=
  ∀ (s : State) (p : Port), s.canonical → (∀ n, (s.record n).expires p.other = false) →
    ∃ t, exec .holdExpired s = .next t ∧ State.editsOnly (s.onPort p fun q => { q with expiry := (t.port p).expiry }) t ∧
      t.index = s.index ∧ t.freeQueue = s.freeQueue ∧ t.store.damage = s.store.damage ∧
      (∀ n, t.record n = if (s.record n).expires p then (s.record n).unclaimed else s.record n) ∧
      (∀ q, (t.port q).commitList = (s.port q).commitList.filter (fun n => !(s.record n).expires p) ∧
        (t.port q).scheduled = (s.port q).scheduled.filter (fun n => !(s.record n).expires p)) ∧
      t.load = { s.load with scheduled := s.load.scheduled.filter (fun n => !(s.record n).expires p) } ∧
      (∀ n, (s.record n).expires p = true → t.store.nu = s.store.nu.add p .holdExpired ∧
        ∃ e, (t.port p).expiry = some e ∧ e.frame = s.ftu.frameCount ∧ e.lowest ≤ n ∧
          (s.record e.lowest).expires p = true ∧ e.count = (s.slotsWhere (Record.expires p)).length) ∧
      ((∀ n, (s.record n).expires p = false) → t = s)

/-! ### Frame timing -/

/-- R144: SELECT_SOURCE sets the requested source and the switch pending flag as the table of R144 gives, adds REF_FALLBACK to both ports
where that condition begins, and answers the sources, the flag, the monitor and the frame count, all as they stand after it. R145: INTERNAL
on external timing whose next expiry has passed is a boundary at once, which completes the switch. R143: INTERNAL on internal timing
releases a held expiry, with a boundary at once where the next expiry has passed, and else leaves it ahead; EXTERNAL keeps it held. R188: an
operand that names no source is BAD_FIELD, and nothing else changes. -/
def Obligations.SelectSourceSetsTheRequest : Prop :=
  (∀ (s : State) (tag : Byte) (rest : List Message) (source : Source), s.takes .a 0x40 tag (byteOf source.code) rest →
    let items := fun (f : Ftu) =>
      byteOf f.current.code ++ byteOf f.requested.code ++ flagByte f.switchPending ++ f.monitor.bytes ++ beBytes 4 f.frameCount.toNat
    let leaves := fun (t : State) => exec .selectSource s = .next (t.answered .a rest tag .ok (items t.ftu))
    let paced := fun (f : Ftu) =>
      let t := boundary { s.taken .a rest with ftu := f }
      leaves t ∧ t.ftu = { f with
        lastBoundary := s.ftu.now, nextExpiry := s.ftu.now + s.params.nominalPeriod, frameCount := s.ftu.frameCount + 1 }
    ((source = .internal → s.ftu.current = .internal → s.ftu.expiryHeld = false) →
      (source = .internal → s.ftu.current = .external → s.ftu.now < s.ftu.nextExpiry) →
      leaves { s with
        ftu := { s.ftu with requested := source, switchPending := decide (source ≠ s.ftu.current) }
        store := { s.store with nu := if source = .external ∧ s.ftu.current = .internal ∧ s.ftu.requested = .internal
          then s.store.nu.addBoth .refFallback else s.store.nu } }) ∧
    (source = .internal → s.ftu.current = .external → s.ftu.nextExpiry ≤ s.ftu.now →
      paced { s.ftu with requested := .internal, current := .internal, switchPending := false }) ∧
    (source = .internal → s.ftu.current = .internal → s.ftu.expiryHeld = true →
      let f : Ftu := { s.ftu with requested := .internal, switchPending := false, expiryHeld := false }
      (s.ftu.now < s.ftu.nextExpiry → leaves { s with ftu := f }) ∧ (s.ftu.nextExpiry ≤ s.ftu.now → paced f))) ∧
  (∀ (s : State) (tag : Byte) (rest : List Message) (code : Nat), 1 < code → code < 256 → s.takes .a 0x40 tag (byteOf code) rest →
    exec .selectSource s = .next (s.answered .a rest tag .badField [0]))

/-- R134, R135, R138, R140, R142, R143: a FRAME_REF pulse that no expiry and no loss precedes is recorded with its interval and moves the
monitor as each row of the table of R135 gives. It is a boundary at that moment while the monitor is LOCKED after it, it is in window and
both sources are EXTERNAL; and, with INTERNAL current and EXTERNAL requested, half a period or more after the last boundary, where it
completes the switch. Earlier than that it holds the expiry, and an in-window pulse with INTERNAL requested is no boundary. A pulse out of
window that ends LOCKED ends external timing, or releases a held expiry, with a boundary at once where the next expiry has passed; otherwise
nothing else changes, but for REF_FALLBACK where that condition begins. -/
def Obligations.PulseMovesTheMonitorAndPacesFrames : Prop :=
  ∀ (s : State) (elapsed : Nat), s.ftu.sound →
    (∀ e, s.expiryDeadline = some e → s.ftu.now + elapsed ≤ e) → (∀ l, s.lossDeadline = some l → s.ftu.now + elapsed ≤ l) →
    let now := s.ftu.now + elapsed
    let good : Prop := ∃ last, s.ftu.lastPulse = some last ∧ s.params.nominalPeriod - s.params.nominalPeriod / 16 ≤ now - last ∧
      now - last ≤ s.params.nominalPeriod + s.params.nominalPeriod / 16
    let pulsed := fun (m : Monitor) => { s.ftu with
      now := now, monitor := m, lastPulse := some now, older := s.ftu.newer,
      newer := s.ftu.lastPulse.map fun last => min 65535 (now - last) }
    let quiet := fun (f : Ftu) => exec (.frameRefPulse elapsed) s = .next { s with ftu := f }
    let paced := fun (f : Ftu) => ∃ t, exec (.frameRefPulse elapsed) s = .next t ∧
      t = boundary { s with ftu := f } ∧
      t.ftu = { f with lastBoundary := now, nextExpiry := now + s.params.nominalPeriod, frameCount := s.ftu.frameCount + 1 }
    (s.ftu.monitor = .noReference → quiet (pulsed (.acquiring 1))) ∧
    (∀ n, s.ftu.monitor = .acquiring n → good → n < 7 → quiet (pulsed (.acquiring (n + 1)))) ∧
    (∀ n, s.ftu.monitor = .acquiring n → ¬ good → quiet (pulsed (.acquiring 1))) ∧
    (s.ftu.monitor = .acquiring 7 ∨ s.ftu.monitor = .locked → good →
      (s.ftu.current = .external → s.ftu.requested = .external → paced (pulsed .locked)) ∧
      (s.ftu.requested = .internal → quiet (pulsed .locked)) ∧
      (s.ftu.current = .internal → s.ftu.requested = .external →
        (s.params.nominalPeriod / 2 ≤ now - s.ftu.lastBoundary →
          paced { pulsed .locked with current := .external, switchPending := false, expiryHeld := false }) ∧
        (now - s.ftu.lastBoundary < s.params.nominalPeriod / 2 → quiet { pulsed .locked with expiryHeld := true }))) ∧
    (s.ftu.monitor = .locked → ¬ good →
      (s.ftu.current = .external →
        let f := { pulsed (.acquiring 1) with current := .internal, switchPending := decide (s.ftu.requested = .external) }
        let nu := if s.ftu.requested = .external then s.store.nu.addBoth .refFallback else s.store.nu
        (now < s.ftu.nextExpiry → exec (.frameRefPulse elapsed) s = .next { s with ftu := f, store := { s.store with nu := nu } }) ∧
        (s.ftu.nextExpiry ≤ now → ∃ t, exec (.frameRefPulse elapsed) s = .next t ∧
          t = boundary { s with ftu := f, store := { s.store with nu := nu } } ∧
          t.ftu = { f with lastBoundary := now, nextExpiry := now + s.params.nominalPeriod, frameCount := s.ftu.frameCount + 1 })) ∧
      (s.ftu.current = .internal → s.ftu.expiryHeld = true →
        let f := { pulsed (.acquiring 1) with expiryHeld := false }
        (now < s.ftu.nextExpiry → quiet f) ∧ (s.ftu.nextExpiry ≤ now → paced f)) ∧
      (s.ftu.current = .internal → s.ftu.expiryHeld = false → quiet (pulsed (.acquiring 1))))

/-- R42, R43, R67, R68, R69, R72, R73, R80, R92, R137, R139, R156: an INTERNAL_EXPIRY on internal timing that is not held, or on external
timing with INTERNAL requested, where it completes the switch (R145), and that no loss precedes is a boundary at its moment: the frame count
rises by 1 with wrapping, and the next expiry lies one NOMINAL_PERIOD on. The REPORTED seats age, and a FRESH one at STATUS_TIMEOUT turns
STALE with SEAT_STALE; the scrub cursor moves on by SCRUB_RATE; the latch takes the frame settings, ends a withdrawal and makes the clip
counts readable. In a store without errors every record that no claim and no load reaches is slewed, and the snapshot shows each seat as the
records and seats then stand. R149 to R154, R158: where one word holds flipped bits and the scrub reaches its slot, a single bit is
corrected and counted in SEC. Two or more are counted in DED and named in the last finding: a word of a FREE slot, or of an unclaimed
pending bank, is written as zero, so that its fields read 0 (which they are stays open, log 15); one of a bank in an edit sets pending
damaged; one of the identity word, the state word or the active bank of an ABSENT record makes it SUSPECT with RECORD_SUSPECT. An expiry
with both sources EXTERNAL, and a held one (R143), has no effect but that the clock comes to it (log 4). (The order of the boundary's parts,
where R139 leaves it open, is a free value, log 7; no clause depends on it.) -/
def Obligations.InternalExpiryProducesABoundary : Prop :=
  let switched := fun (s : State) =>
    if s.ftu.current = .external then { s.ftu with current := .internal, switchPending := false } else s.ftu
  let toward := fun (s : State) (applied target : Nat) =>
    if applied ≤ target then min target (applied + s.params.slewStep) else max target (applied - s.params.slewStep)
  let slewed := fun (s : State) (r : Record) => { r with applied :=
    ⟨toward s r.applied.r r.target.r, toward s r.applied.g r.target.g, toward s r.applied.b r.target.b⟩ }
  (∀ s : State, s.expiryDue → ∃ t, exec .internalExpiry s = .next t ∧
    t = boundary { s with ftu := { switched s with now := s.ftu.nextExpiry } } ∧
    t.ftu = { switched s with
      now := s.ftu.nextExpiry, lastBoundary := s.ftu.nextExpiry, nextExpiry := s.ftu.nextExpiry + s.params.nominalPeriod,
      frameCount := s.ftu.frameCount + 1 } ∧
    t.cd = { s.cd with
      snapshot := t.cd.snapshot, settings := ⟨s.params.tileCols, s.params.tileRows, s.params.ditherTemporal⟩, withdrawn := false,
      seedLoad := if s.cd.seedArmed then some s.params.ditherSeed else s.cd.seedLoad, seedArmed := false,
      readable := s.cd.running, running := [] } ∧
    (s.cursor < 2048 → t.cursor = (s.cursor + s.params.scrubRate) % 2048) ∧
    (∀ p, (t.port p).messages = (s.port p).messages ∧ (t.port p).answers = (s.port p).answers ∧
      (t.port p).zones = (s.port p).zones ∧ (t.port p).miso = (s.port p).miso) ∧
    t.params = s.params ∧ t.trl = s.trl ∧ t.batches = s.batches ∧ t.driftCounter = s.driftCounter ∧ t.lastTaken = s.lastTaken ∧
    t.upsets = s.upsets ∧ t.pending = s.pending ∧ t.seatCheckDue = false ∧
    (s.canonical →
      let since := fun (n : Nat) => min 65535 ((s.seat n).since + 1)
      let ages := fun (n : Nat) => (s.seat n).kind ≠ .vacant ∧ (s.seat n).origin = .reported
      let stale := fun (n : Nat) => ages n ∧ (s.seat n).fresh = .fresh ∧ s.params.statusTimeout ≠ 0 ∧ s.params.statusTimeout ≤ since n
      (∀ n, (ages n → (t.seat n).since = since n) ∧ (¬ ages n → (t.seat n).since = (s.seat n).since) ∧
        (stale n → (t.seat n).fresh = .stale) ∧ (¬ stale n → (t.seat n).fresh = (s.seat n).fresh) ∧
        (t.seat n).kind = (s.seat n).kind ∧ (t.seat n).origin = (s.seat n).origin) ∧
      s.store.nu.adds t.store.nu .seatStale (∃ n, stale n)) ∧
    (s.canonical → s.clean →
      (∀ n, let r := s.record n
        r.hold = .none → n ∉ s.portA.scheduled → n ∉ s.portB.scheduled → n ∉ s.load.scheduled → n ∉ s.load.list →
        t.record n = if r.inUse then slewed s r else r) ∧
      ∀ n, Table.get .dark t.cd.snapshot n = match (t.seat n).kind with
        | .vacant => .dark
        | .placed k =>
          let source := t.ctx.bankInUse (t.record k)
          .lit (match source.1 with | .active _ => .record | .batchEntry _ => .batch | .unity => .unity)
            source.2.matrix source.2.trims (t.record k).applied
        | .unrecorded _ batch =>
          let source := batchBank t.batches t.params.fallbackGain batch
          .lit (if source.1 = .unity then .unity else .batch) source.2.matrix source.2.trims
            ⟨min t.params.headroomLimit source.2.gains.r, min t.params.headroomLimit source.2.gains.g,
              min t.params.headroomLimit source.2.gains.b⟩)) ∧
  (∀ (s : State) (n : Nat) (word : ArrayWord) (bits : List Nat), s.canonical → s.directory → s.expiryDue → s.store.damage = [⟨n, word, bits⟩] →
    n ≤ 2047 → s.cursor < 2048 → s.params.scrubRate ≤ 16 → (n + 2048 - s.cursor) % 2048 < s.params.scrubRate →
    ∃ t, exec .internalExpiry s = .next t ∧
      let r := s.record n
      let found := fun (loc : Location) => t.store.nu.counters = s.store.nu.counters.bump .ded 1 ∧
        t.store.finding = some ⟨s.ftu.frameCount + 1, n, loc, .sc⟩
      (∀ bit, bits = [bit] → r.hold = .none → t.store.damage = [] ∧ t.store.finding = s.store.finding ∧
        t.store.nu.counters = s.store.nu.counters.bump .sec 1 ∧ t.record n = if r.inUse then slewed s r else r) ∧
      (2 ≤ bits.length →
        (r.inUse = false → found .freeSlot ∧ t.store.damage = [] ∧ t.record n = Record.blank) ∧
        (∀ g i, word = .bank r.active.other g i → r.inUse = true →
          (r.hold = .none → found .pendingBank ∧ t.store.damage = [] ∧ t.record n = (slewed s r).setBank r.active.other
            (r.pendingBank.mix (fun f => decide (f.group = g ∧ Config.bankWord f = i)) Bank.cleared)) ∧
          (r.timerRuns = true → 1 < r.holdTimer → found .pendingBank ∧ t.store.damage = s.store.damage ∧
            t.record n = { slewed s r with holdTimer := r.holdTimer - 1, pendingDamaged := true })) ∧
        (∀ loc, r.inUse = true → r.hold = .none → r.seat = none →
          word = .identity ∧ loc = .identity ∨ word = .state ∧ loc = .state ∨
            (∃ g i, word = .bank r.active g i) ∧ loc = .activeBank →
          found loc ∧ (t.record n).state = .suspect ∧ t.store.damage = (if loc = .activeBank then s.store.damage else []) ∧
          ∀ p, s.store.nu.attached p = true → (t.store.nu.sets p).pending.getLsbD Event.recordSuspect.number = true))) ∧
  (∀ s : State, s.ftu.current = .external ∧ s.ftu.requested = .external ∨ s.ftu.current = .internal ∧ s.ftu.expiryHeld = true →
    (∀ l, s.lossDeadline = some l → s.ftu.nextExpiry ≤ l) →
    exec .internalExpiry s = .next { s with ftu := { s.ftu with now := max s.ftu.now s.ftu.nextExpiry } })

/-- R136, R140, R191: a loss declared that no expiry precedes leaves the monitor at NO_REFERENCE without a last pulse, on internal timing,
with the requested source as it was and a switch pending exactly where that is EXTERNAL. Where it ends external timing, REF_FALLBACK is
added to both ports if the requested source is EXTERNAL, for that condition begins, and a boundary falls at once if the next expiry has
passed. R143: where an expiry was held it is released, with a boundary at once if it has passed. Otherwise there is no boundary, and nothing
else changes. -/
def Obligations.ReferenceLossEndsExternalTiming : Prop :=
  ∀ (s : State) (l : Nat), s.lossDeadline = some l → s.ftu.now ≤ l → s.ftu.sound → (∀ e, s.expiryDeadline = some e → l ≤ e) →
    ∃ t, exec .referenceLoss s = .next t ∧ t.ftu.monitor = .noReference ∧ t.ftu.lastPulse = none ∧ t.ftu.current = .internal ∧
      t.ftu.requested = s.ftu.requested ∧ (t.ftu.switchPending = true ↔ s.ftu.requested = .external) ∧ t.ftu.expiryHeld = false ∧
      t.ftu.now = l ∧
      let lost : Ftu := { s.ftu with now := l, monitor := .noReference, lastPulse := none }
      let then_ := fun (u : State) =>
        (l < s.ftu.nextExpiry → t = u) ∧
        (s.ftu.nextExpiry ≤ l → t = boundary u ∧ t.ftu = { u.ftu with
          lastBoundary := l, nextExpiry := l + s.params.nominalPeriod, frameCount := s.ftu.frameCount + 1 })
      (s.ftu.current = .external → then_ { s with
        ftu := { lost with current := .internal, switchPending := decide (s.ftu.requested = .external) }
        store := { s.store with nu := if s.ftu.requested = .external then s.store.nu.addBoth .refFallback else s.store.nu } }) ∧
      (s.ftu.current = .internal → s.ftu.expiryHeld = true → then_ { s with ftu := { lost with expiryHeld := false } }) ∧
      (s.ftu.current = .internal → s.ftu.expiryHeld = false → t = { s with ftu := lost })

/-- R147, R159: READ_TIMING and READ_INTEGRITY answer their items and change nothing else. (A duration above 65535 has open bytes, log 10;
the frame, the location and the reader of an absent finding stay open, log 18; the widths of the number of boundaries of a full pass and of
NOMINAL_PERIOD are the model's reading, log 16.) -/
def Obligations.TimingAndIntegrityAreRead : Prop :=
  (∀ (s : State) (p : Port) (tag : Byte) (rest : List Message), s.takes p 0x41 tag [] rest → s.params.nominalPeriod ≤ 43690 →
    exec .readTiming s = .next (s.answered p rest tag .ok (
      byteOf s.ftu.current.code ++ byteOf s.ftu.requested.code ++ flagByte s.ftu.switchPending ++ flagByte s.ftu.expiryHeld ++
      flagByte (decide (s.ftu.requested = .external ∧ s.ftu.current = .internal)) ++ s.ftu.monitor.bytes ++
      beBytes 4 s.ftu.frameCount.toNat ++ beBytes 4 s.params.nominalPeriod ++ u16 (s.params.nominalPeriod / 16) ++
      u16 (s.params.nominalPeriod / 2) ++ u16 (3 * s.params.nominalPeriod / 2) ++ u16 (min 65535 (s.ftu.now - s.ftu.lastBoundary)) ++
      optU16 (s.ftu.lastPulse.map fun last => min 65535 (s.ftu.now - last)) ++ optU16 s.ftu.newer ++ optU16 s.ftu.older))) ∧
  (∀ (s : State) (p : Port) (tag : Byte) (rest : List Message), s.takes p 0x41 tag [] rest → 43690 < s.params.nominalPeriod →
    s.params.nominalPeriod ≤ 131071 → ∃ lossDelay : List Byte, lossDelay.length = 2 ∧
    exec .readTiming s = .next (s.answered p rest tag .ok (
      byteOf s.ftu.current.code ++ byteOf s.ftu.requested.code ++ flagByte s.ftu.switchPending ++ flagByte s.ftu.expiryHeld ++
      flagByte (decide (s.ftu.requested = .external ∧ s.ftu.current = .internal)) ++ s.ftu.monitor.bytes ++
      beBytes 4 s.ftu.frameCount.toNat ++ beBytes 4 s.params.nominalPeriod ++ u16 (s.params.nominalPeriod / 16) ++
      u16 (s.params.nominalPeriod / 2) ++ lossDelay ++ u16 (min 65535 (s.ftu.now - s.ftu.lastBoundary)) ++
      optU16 (s.ftu.lastPulse.map fun last => min 65535 (s.ftu.now - last)) ++ optU16 s.ftu.newer ++ optU16 s.ftu.older))) ∧
  (∀ (s : State) (p : Port) (tag : Byte) (rest : List Message), s.takes p 0x4C tag [] rest → ∃ frame location reader : List Byte,
    frame.length = 4 ∧ location.length = 1 ∧ reader.length = 1 ∧
    (∀ f, s.store.finding = some f →
      frame = beBytes 4 f.frame.toNat ∧ location = byteOf f.location.code ∧ reader = byteOf f.reader.code) ∧
    exec .readIntegrity s = .next (s.answered p rest tag .ok (u16 s.store.nu.counters.sec ++ u16 s.store.nu.counters.ded ++
      frame ++ optU16 (s.store.finding.map Finding.slot) ++ location ++ reader ++ u16 s.cursor ++ beBytes 4 s.params.scrubRate ++
      optU16 (if s.params.scrubRate = 0 then none else some ((2047 + s.params.scrubRate) / s.params.scrubRate)))))

/-! ### The bulk load -/

/-- R161: LOAD_BEGIN while no load is in progress begins one for the port, with the fields R161 gives; while one is, it is answered BUSY
with the state and the owner, and of a count above 2048, whose operand is above 2047, BAD_FIELD, and nothing else changes. (The owner's code is the model's reading, log 13.) -/
def Obligations.LoadBeginStartsALoad : Prop :=
  (∀ (s : State) (p : Port) (tag : Byte) (rest : List Message) (n : Nat), 2047 < n → n < 65536 → s.takes p 0x50 tag (u16 n) rest →
    exec .loadBegin s = .next (s.answered p rest tag .badField [0])) ∧
  ∀ (s : State) (p : Port) (tag : Byte) (rest : List Message) (n : Nat), n ≤ 2047 → s.takes p 0x50 tag (u16 n) rest →
    (s.load.state ≠ .active → s.load.state ≠ .committing → exec .loadBegin s = .next (({ s with
        load := ⟨.active, some p, n, none, [], 0, s.params.holdTimeout, 0, 0, none, .none, []⟩ } : State).answered p rest tag .ok
      (u16 (n + 1) ++ u16 s.params.holdTimeout))) ∧
    (∀ q, s.load.state = .active ∨ s.load.state = .committing → s.load.owner = some q →
      exec .loadBegin s = .next (s.answered p rest tag .busy [BitVec.ofNat 8 s.load.state.code, BitVec.ofNat 8 q.hold.code]))

/-- R162 to R164: LOAD_RECORD of the image of an unheld record that passes the owner's zone check, in a store without errors, freezes the
record for the load with the image's bank pending and counts it. R13, R14, R163: of an identity without a record it creates one, created by
load, in the slot at the head of the Free Slot Queue, or, with none free and AUTO_RECLAIM on, in that of the record which an auto-reclaim
retires, counts in RECLAIMS and whose identity the answer carries. Either way the last record expected makes every loaded record SCHEDULED
and the load COMMITTING (R164). Nothing else changes, but for CEILING where the creation's recompute limits the record (R90), and POOL_LOW
where that condition begins (R16). (The place of the frame count in the completing answer is the
model's reading, log 16.) -/
def Obligations.LoadRecordTakesARecord : Prop :=
  ∀ (s : State) (p : Port) (tag : Byte) (rest : List Message) (x batch : Nat) (bank : Bank), s.canonical → s.clean →
    0 < x → x < 2 ^ 48 → batch < 65536 → bank.valid = true → s.takes p 0x51 tag (recordImage x batch bank) rest →
    s.load.state = .active → s.load.owner = some p →
    let taken := fun (r : Record) => { r.setBank r.pendingIx bank with
      hold := .load, condition := .frozen, pendingDamaged := false, expectedCrc := bankCrc bank }
    0 ≤ s.load.remaining → s.load.remaining ≤ 2047 →
    let last : Prop := s.load.remaining = 0
    let final := fun (r : Record) => if last then { r with condition := .scheduled } else r
    let accepted := fun (t : State) (slot created retired : Nat) (r : Record) =>
      exec .loadRecord s = .next (t.answered p rest tag .ok (u16 slot ++ byteOf created ++ halfBytes (bankCrc bank) ++
        beInt 2 (s.load.remaining - 1) ++ beBytes 6 retired ++ (if last then beBytes 4 (s.ftu.frameCount + 1).toNat else []))) ∧
      t.load = { s.load with
        state := if last then .committing else .active
        list := s.load.list ++ [slot], lastSlot := some slot, remaining := s.load.remaining - 1, timer := s.params.holdTimeout,
        scheduled := t.load.scheduled } ∧
      (∀ n, n ∈ t.load.scheduled ↔ n ∈ s.load.scheduled ∨ last ∧ (n ∈ s.load.list ∨ n = slot)) ∧
      (¬ last → t.load.scheduled = s.load.scheduled) ∧
      t.record slot = final (taken r) ∧ ∀ k, k ≠ slot → t.record k = if k ∈ s.load.list then final (s.record k) else s.record k
    (∀ e, s.lookup x = some e → (s.record e.slot).hold = .none → s.zonePass p (s.record e.slot).seat = true → ∃ t : State,
      accepted t e.slot 0 0 (s.record e.slot) ∧ t = { s with load := t.load, store := { s.store with records := t.store.records } }) ∧
    (∀ slot queue retired, s.lookup x = none → s.allocates slot queue retired →
      let fallback := (batchBank s.batches s.params.fallbackGain batch).2
      let goal := targetsOf s.params.headroomLimit fallback none 0
      let limited := isLimited s.params.headroomLimit fallback none 0
      let counted := retired.elim s.store.nu fun _ => s.store.nu.count .reclaims 1
      let nu := if limited then counted.addBoth .ceiling else counted
      ∃ t : State, accepted t slot 1 (retired.getD 0) { Record.blank with
          state := .new, identity := x, batch := batch, lastSeen := s.ftu.frameCount, createdByLoad := true, target := goal, applied := goal
          ceiling := limited } ∧
        t = { s with
          index := t.index, freeQueue := queue, load := t.load, store := { s.store with
            records := t.store.records
            nu := if s.params.poolLowThreshold ≤ s.freeQueue.length ∧ queue.length < s.params.poolLowThreshold
              then nu.addBoth .poolLow else nu } } ∧
        ∀ y, t.lookup y = if y = x then some ⟨slot, batch⟩ else if some y = retired then none else s.lookup y)

/-- R162, R167, R168: a LOAD_RECORD by the owner that fails a check of R162's table aborts the load with the reason of the table, adds
LOAD_ABORTED to the owner, and is answered the table's code with the reason: CHECK where its CRC does not match, with the computed CRC;
CHECK, BAD_FIELD naming the first field at fault, where the identity is 0 or the bank is no valid one; DUPLICATE, EXISTS with the slot,
where the load holds the identity's record; HELD with the holder where a port does; ZONE with the seat where the record lies outside the
owner's zones; and POOL_EMPTY where an identity without a record gets no slot, for none is free and AUTO_RECLAIM is off or no record is
eligible. The load is undone as R167 gives, and nothing else changes. One while no load is ACTIVE is answered NO_LOAD, and one from the
other port NOT_PERMITTED, with no effect. (The order of the answer's items is the model's reading, log 16; which field of a bank is named,
with the length, is stated with the bank image's round trip.) -/
def Obligations.FailingLoadRecordAbortsTheLoad : Prop :=
  ∀ (s : State) (p : Port) (tag : Byte) (rest : List Message) (payload : List Byte), 49 ≤ payload.length →
    s.takes p 0x51 tag payload rest →
    (s.load.state ≠ .active → exec .loadRecord s = .next (s.answered p rest tag .noLoad [])) ∧
    (s.load.state = .active → s.load.owner ≠ some p → exec .loadRecord s = .next (s.answered p rest tag .notPermitted [])) ∧
    (s.load.state = .active → s.load.owner = some p →
      let crc := crc16 (payload.take (payload.length - 2))
      let crcGood : Prop := crc = BitVec.ofNat 16 (natAt payload (payload.length - 2) 2)
      let image := (payload.take (payload.length - 2)).drop 8
      let aborted := fun (reason : Reason) (code : AnswerCode) (items : List Byte) => ∃ t : State,
        exec .loadRecord s = .next (t.answered p rest tag code (BitVec.ofNat 8 reason.code :: items)) ∧ State.editsOnly s t ∧
        t.load = { s.load with
          state := .aborted, reason := reason, list := [], count := s.load.list.length, scheduled := [], committed := 0, failed := 0,
          firstFailed := none } ∧
        t.store.nu = s.store.nu.add p .loadAborted ∧ (∀ n, n ∉ s.load.list → t.record n = s.record n) ∧
        (s.canonical → s.directory → s.abandons t reason id)
      (¬ crcGood → aborted .check .check (halfBytes crc)) ∧ (crcGood → natAt payload 0 6 = 0 → aborted .check .badField [0]) ∧
      (crcGood → natAt payload 0 6 ≠ 0 → (∀ bank, Bank.valid bank = true → image ≠ bankImage bank) →
        ∃ field, bankFault 8 image = some field ∧ aborted .check .badField (byteOf field)) ∧
      (∀ x batch bank, payload = recordImage x batch bank → bank.valid = true → 0 < x → x < 2 ^ 48 →
        (∀ e, s.lookup x = some e →
          ((s.record e.slot).hold = .load → aborted .duplicate .exists_ (u16 e.slot)) ∧
          (s.clean → (s.record e.slot).hold = .portA ∨ (s.record e.slot).hold = .portB →
            aborted .held .held [BitVec.ofNat 8 (s.record e.slot).hold.code]) ∧
          (∀ seat, s.clean → (s.record e.slot).hold = .none → (s.record e.slot).seat = some seat → s.outsideZones p seat →
            aborted .zone .zone (u16 seat))) ∧
        (s.lookup x = none → s.allocatesNone → aborted .poolEmpty .poolEmpty [])))

/-- R166, R167, R169: LOAD_ABORT by the owner of an ACTIVE load, and its timer reaching 0, abandon it: every loaded record's claim ends, the
records it created are retired where they are ABSENT, in the order of the list, and stay with the flag clear where they are placed, and the
load is ABORTED with its reason; LOAD_ABORTED is added to the owner and nothing else changes. LOAD_ABORT is answered NO_LOAD, NOT_PERMITTED
or BUSY where the load is not the port's ACTIVE one, and a timer that does not stand at 0 changes nothing. (That the timer's check has a row
of its own, beside the boundary that takes it within its step, is log 8.) -/
def Obligations.AbortUndoesTheLoad : Prop :=
  let undone := fun (s t : State) (reason : Reason) => s.abandons t reason id ∧
    (∀ n, n ∉ s.load.list → t.record n = s.record n) ∧
    t = { s with
      store := { s.store with
        records := t.store.records, damage := t.store.damage,
        nu := s.load.owner.elim s.store.nu fun p => s.store.nu.add p .loadAborted }
      index := t.index
      freeQueue := t.freeQueue
      load := t.load }
  (∀ (s : State) (p : Port) (tag : Byte) (rest : List Message), s.canonical → s.directory → s.takes p 0x52 tag [] rest →
    s.load.state = .active → s.load.owner = some p → ∃ t : State,
      exec .loadAbort s = .next (t.answered p rest tag .ok (beInt 2 s.load.remaining ++ optU16 s.load.lastSlot ++ u16 s.load.list.length ++
        u16 s.createdAbsent.length)) ∧ undone s t .byCommand) ∧
  (∀ s : State, s.canonical → s.directory → s.load.state = .active → s.load.timer = 0 →
    ∃ t, exec .loadTimeout s = .next t ∧ undone s t .timeout) ∧
  (∀ s : State, s.load.state ≠ .active ∨ s.load.timer ≠ 0 → exec .loadTimeout s = .next s) ∧
  (∀ (s : State) (p : Port) (tag : Byte) (rest : List Message), s.takes p 0x52 tag [] rest →
    (s.load.state ≠ .active → s.load.state ≠ .committing → exec .loadAbort s = .next (s.answered p rest tag .noLoad [])) ∧
    (s.load.state = .active ∨ s.load.state = .committing → s.load.owner ≠ some p →
      exec .loadAbort s = .next (s.answered p rest tag .notPermitted [])) ∧
    (s.load.state = .committing → s.load.owner = some p → exec .loadAbort s = .next (s.answered p rest tag .busy [])))

/-- R48, R170: READ_SEAT answers the seat's entry with its readable clip count and LOAD_STATUS the load's fields with what its state adds;
neither changes anything else. (The owner's code and the items that only one state carries are the model's reading, logs 13 and 16.) -/
def Obligations.SeatAndLoadAreRead : Prop :=
  (∀ (s : State) (p : Port) (tag : Byte) (rest : List Message) (n : Nat), n ≤ 1535 → s.takes p 0x22 tag (u16 n) rest →
    exec .readSeat s = .next (s.answered p rest tag .ok (u16 n ++ (s.seat n).kind.bytes ++ byteOf (s.seat n).origin.code ++
      byteOf (s.seat n).fresh.code ++ u16 (s.seat n).since ++ u16 (Table.get 0 s.cd.readable n)))) ∧
  (∀ (s : State) (p : Port) (tag : Byte) (rest : List Message) (n : Nat), 1535 < n → n < 65536 → s.takes p 0x22 tag (u16 n) rest →
    exec .readSeat s = .next (s.answered p rest tag .badField [0])) ∧
  (∀ (s : State) (p : Port) (tag : Byte) (rest : List Message), s.takes p 0x53 tag [] rest →
    exec .loadStatus s = .next (s.answered p rest tag .ok (byteOf s.load.state.code ++
      byteOf (match s.load.owner with | none => 0 | some .a => 1 | some .b => 2) ++ beInt 2 s.load.remaining ++ optU16 s.load.lastSlot ++
      u16 (if s.load.state = .active ∨ s.load.state = .committing then s.load.list.length else s.load.count) ++
      (match s.load.state with
        | .idle => []
        | .active => u16 s.load.timer
        | .committing => beBytes 4 (s.ftu.frameCount + 1).toNat
        | .done => u16 s.load.committed ++ u16 s.load.failed ++ optU16 s.load.firstFailed
        | .aborted => byteOf s.load.reason.code))))

/-! ### Events and counters -/

/-- R189, R192 to R194: READ_EVENTS answers both sets, the line and both conditions; CLEAR_EVENTS removes the named kinds from the
requesting port's pending set alone; SET_EVENT_ENABLES replaces its enable set alone; a line is high exactly while some kind is pending and
enabled at an attached port. -/
def Obligations.EventSetsAndLines : Prop :=
  (∀ (s : State) (p : Port), s.notify p = true ↔
    s.store.nu.attached p = true ∧ ∃ e : Event, (s.store.nu.sets p).pending.getLsbD e.number = true ∧
      (s.store.nu.sets p).enabled.getLsbD e.number = true) ∧
  (∀ (s : State) (p : Port) (tag : Byte) (rest : List Message), s.takes p 0x60 tag [] rest →
    exec .readEvents s = .next (s.answered p rest tag .ok (u16 (s.store.nu.sets p).pending.toNat ++ u16 (s.store.nu.sets p).enabled.toNat ++
      flagByte (s.notify p) ++ flagByte (decide (s.freeQueue.length < s.params.poolLowThreshold)) ++
      flagByte (decide (s.ftu.requested = .external ∧ s.ftu.current = .internal))))) ∧
  (∀ (s : State) (p : Port) (tag : Byte) (rest : List Message) (mask : Half), s.takes p 0x61 tag (halfBytes mask) rest →
    let left := (s.store.nu.sets p).pending &&& ~~~(mask.setWidth 15)
    exec .clearEvents s = .next (({ s with store := { s.store with nu := s.store.nu.setSets p ⟨left, (s.store.nu.sets p).enabled⟩ } } :
      State).answered p rest tag .ok (u16 left.toNat))) ∧
  (∀ (s : State) (p : Port) (tag : Byte) (rest : List Message) (mask : Half), s.takes p 0x62 tag (halfBytes mask) rest →
    let sets : EventSets := ⟨(s.store.nu.sets p).pending, mask.setWidth 15⟩
    exec .setEventEnables s = .next (({ s with store := { s.store with nu := s.store.nu.setSets p sets } } : State).answered p rest tag .ok
      (u16 sets.enabled.toNat ++ flagByte sets.meet)))

/-- R196, R197: READ_COUNTERS answers the thirteen counters and changes nothing else; CLEAR_COUNTERS answers them, sets them to 0 and the
last uncorrectable finding to none, and changes nothing else. -/
def Obligations.CountersAreReadAndCleared : Prop :=
  (∀ (s : State) (p : Port) (tag : Byte) (rest : List Message), s.takes p 0x63 tag [] rest →
    exec .readCounters s = .next (s.answered p rest tag .ok (s.store.nu.counters.values.flatMap u16))) ∧
  (∀ (s : State) (tag : Byte) (rest : List Message), s.takes .a 0x64 tag [] rest →
    exec .clearCounters s = .next (({ s with store := { s.store with
      finding := none, nu := { s.store.nu with counters := ⟨0, 0, 0, 0, 0, 0, 0, 0, 0, 0, 0, 0, 0⟩ } } } : State).answered .a rest tag .ok
        (s.store.nu.counters.values.flatMap u16))) ∧
  (∀ (s : State) (tag : Byte) (rest : List Message), s.takes .b 0x64 tag [] rest →
    exec .clearCounters s = .next (s.answered .b rest tag .notPermitted []))

/-! ### Pixels -/

/-- R62 to R66, R78 to R80: a start pixel takes a seed load that is due and begins a burst with its seat's entry, the settings and the
withdrawal as they stand, is output with its tag and steps the dither register; an unseated burst, a withdrawn one and a DARK seat are
output dark, and an unseated burst is counted once. R63, R64, R66, R78, R80: a pixel after a start pixel is corrected with what the burst
took, whatever the snapshot has become, its clamps added to the running clip count of its seat; beyond the tile it is output dark, and the
first such pixel of a seated burst is counted. A pixel before any burst steps the register; what it is output as stays open (log 9). Nothing
else changes. -/
def Obligations.PixelsFollowTheirBurst : Prop :=
  let corrected := fun (s t : State) (data : Pixel) (seat : Nat) (out : Pixel × Nat) =>
    data = out.1 ∧ (s.canonical → ∀ n, Table.get 0 t.cd.running n =
      if n = seat ∧ out.2 ≠ 0 then min 65535 (Table.get 0 s.cd.running n + out.2) else Table.get 0 s.cd.running n)
  (∀ (s : State) (tag : BitVec 11) (p : Pixel), 0 < s.cd.settings.cols → 0 < s.cd.settings.rows →
    let reg : BitVec 15 := s.cd.seedLoad.elim s.cd.dither fun seed => if seed = 0 then 1 else BitVec.ofNat 15 seed
    ∃ t data, exec (.pixelBurst tag p) s = .next t ∧
      t = { s with
        cd := { s.cd with
          output := some ⟨true, tag, data⟩, dither := ditherStep reg, seedLoad := none, running := t.cd.running,
          burst := some ⟨tag, Table.get .dark s.cd.snapshot tag.toNat, s.cd.settings, s.cd.withdrawn, 1⟩ }
        store := { s.store with nu := { s.store.nu with
          counters := if 1536 ≤ tag.toNat then s.store.nu.counters.bump .burstsUnseated 1 else s.store.nu.counters } } } ∧
      (1536 ≤ tag.toNat ∨ s.cd.withdrawn = true ∨ Table.get .dark s.cd.snapshot tag.toNat = .dark →
        data = ⟨0, 0, 0⟩ ∧ t.cd.running = s.cd.running) ∧
      (∀ kind m trims gains, tag.toNat < 1536 → s.cd.withdrawn = false → Table.get .dark s.cd.snapshot tag.toNat = .lit kind m trims gains →
        corrected s t data tag.toNat (correctPixel m trims gains s.cd.settings 0 reg p))) ∧
  (∀ (s : State) (b : Burst) (p : Pixel), s.cd.burst = some b →
    ∃ t data, exec (.pixel p) s = .next t ∧
      t = { s with
        cd := { s.cd with
          output := some ⟨false, b.tag, data⟩, dither := ditherStep s.cd.dither, running := t.cd.running,
          burst := some { b with index := b.index + 1 } }
        store := { s.store with nu := { s.store.nu with
          counters := if b.tag.toNat < 1536 ∧ b.index = b.settings.cols * b.settings.rows
            then s.store.nu.counters.bump .overlengthBursts 1 else s.store.nu.counters } } } ∧
      (1536 ≤ b.tag.toNat ∨ b.withdrawn = true ∨ b.entry = .dark ∨ b.settings.cols * b.settings.rows ≤ b.index →
        data = ⟨0, 0, 0⟩ ∧ t.cd.running = s.cd.running) ∧
      (∀ kind m trims gains, b.tag.toNat < 1536 → b.withdrawn = false → b.entry = .lit kind m trims gains →
        b.index < b.settings.cols * b.settings.rows →
        corrected s t data b.tag.toNat (correctPixel m trims gains b.settings b.index s.cd.dither p))) ∧
  (∀ (s : State) (p : Pixel), s.cd.burst = none → ∃ t output, exec (.pixel p) s = .next t ∧
    t = { s with cd := { s.cd with output := output, dither := ditherStep s.cd.dither }, draws := s.draws + 1 })

/-- R74 to R78, R89, R90, spelled out: each component of a corrected pixel is the matrix row's sum rounded half up and limited to 0..65535,
times the gain and the trim factor, truncated, dithered and limited to 65535; the trim factor is 256 taken through the bands TOP, BOTTOM,
LEFT and RIGHT that the pixel lies in; a clip is counted for each limit that acts. The dither register shifts by one with bits 14 and 13 fed
back. A target is gain, thermal factor and aging factor multiplied and rounded half up, limited to the limit, and a record is limited where
one target exceeds it. So (R7) through the unity matrix without trims, with the gain at 32768 and dithering OFF, every pixel is output as it
came in, and nothing clips: an even wall stays as the scaler drew it. -/
def Obligations.UnityCorrectionIsTheIdentity : Prop :=
  (∀ (p : Pixel) (set : Settings) (index : Nat) (reg : BitVec 15), set.temporal = false →
    correctPixel (unityBank 32768).matrix (unityBank 32768).trims (unityBank 32768).gains set index reg p = (p, 0)) ∧
  (∀ (matrix : Prim (Prim Int)) (trims : List Trim) (gains : Prim Nat) (set : Settings) (index : Nat) (reg : BitVec 15) (p : Pixel),
    let x := index % set.cols
    let y := index / set.cols
    let band := fun (edge : Edge) (within : Nat → Prop) [DecidablePred within] (f : Nat) =>
      match trims.find? fun t => t.edge = edge with
      | none => f
      | some t => if within t.width then f * t.factor / 256 else f
    let f := band .right (set.cols ≤ x + ·) (band .left (x < ·) (band .bottom (set.rows ≤ y + ·) (band .top (y < ·) 256)))
    let d := fun (shift : Nat) => if set.temporal then reg.toNat / 2 ^ shift % 16 else 8
    let one := fun (row : Prim Int) (gain d : Nat) =>
      let sum := (row.r * p.r.toNat + row.g * p.g.toNat + row.b * p.b.toNat + 8192) / 16384
      let out := ((max 0 (min 65535 sum)).toNat * gain * f / 2 ^ 19 + d) / 16
      ((BitVec.ofNat 16 (min 65535 out), (if sum < 0 ∨ 65535 < sum then 1 else 0) + (if 65535 < out then 1 else 0)) : Half × Nat)
    let r := one matrix.r gains.r (d 0)
    let g := one matrix.g gains.g (d 4)
    let b := one matrix.b gains.b (d 8)
    correctPixel matrix trims gains set index reg p = (⟨r.1, g.1, b.1⟩, r.2 + g.2 + b.2)) ∧
  (∀ reg : BitVec 15, (ditherStep reg).getLsbD 0 = (reg.getLsbD 14 ^^ reg.getLsbD 13) ∧
    (∀ i, i < 14 → (ditherStep reg).getLsbD (i + 1) = reg.getLsbD i) ∧ (reg ≠ 0 → ditherStep reg ≠ 0)) ∧
  (∀ (limit : Nat) (bank : Bank) (θ : Option Int) (hours : Nat),
    let Δ : Int := θ.elim 0 fun t => max (-160) (min 160 (t - bank.thetaRef))
    let goal := fun (gain : Nat) (k : Int) (a : Nat) =>
      (gain * (max (2 ^ 19) (min (2 ^ 21 - 1) (2 ^ 20 + k * Δ))).toNat * min (2 ^ 21 - 1) (2 ^ 20 + a * hours / 16) + 2 ^ 39) / 2 ^ 40
    let r := goal bank.gains.r bank.thermal.r bank.aging.r
    let g := goal bank.gains.g bank.thermal.g bank.aging.g
    let b := goal bank.gains.b bank.thermal.b bank.aging.b
    targetsOf limit bank θ hours = ⟨min limit r, min limit g, min limit b⟩ ∧
    (isLimited limit bank θ hours = true ↔ limit < r ∨ limit < g ∨ limit < b))

/-! ### Encodings -/

/-- R176: the CRC-16 over "123456789" is 29B1h and over no bytes FFFFh; over any bytes with their own CRC behind them it is 0. -/
def Obligations.CrcChecksItself : Prop :=
  crc16 [0x31, 0x32, 0x33, 0x34, 0x35, 0x36, 0x37, 0x38, 0x39] = 0x29B1 ∧ crc16 [] = 0xFFFF ∧
    ∀ bytes : List Byte, crc16 (bytes ++ halfBytes (crc16 bytes)) = 0

/-- R7, R188: a valid bank's image has 39 + 4n bytes, is accepted, and is read back as the same bank; so two valid banks with one image are
one. Bytes that are accepted are a valid bank's image, and so are a group's bytes a valid bank's group (R111). R24, R111, R188: of bytes
that are no image the first field at fault is named: θref outside -80..200 at offset 24, a trim count above 4 at 38, a length that disagrees
with the count (FFh), then the first trim entry at fault: its edge above 3 or repeated, its width outside 1..8, its factor outside 128..256.
(That the length is named where the count stands, and so after θref, is the model's reading, log 17.) -/
def Obligations.BankImageRoundTrip : Prop :=
  (∀ b : Bank, b.valid = true → bankOf (bankImage b) = b ∧ (∀ offset, bankFault offset (bankImage b) = none) ∧
    (bankImage b).length = 39 + 4 * b.trims.length) ∧
  (∀ (offset : Nat) (bytes : List Byte), bankFault offset bytes = none → ∃ b, Bank.valid b = true ∧ bytes = bankImage b) ∧
  (∀ (g : Group) (offset : Nat) (bytes : List Byte), groupFault g offset bytes = none ↔ ∃ b, Bank.valid b = true ∧ bytes = groupBytes b g) ∧
  (∀ (offset : Nat) (bytes : List Byte),
    let θ := intAt bytes 24
    let count := natAt bytes 38 1
    bankFault offset bytes =
      if θ < -80 ∨ 200 < θ then some (offset + 24)
      else if 4 < count then some (offset + 38)
      else if bytes.length ≠ 39 + 4 * count then some 0xFF
      else trimFault [] (offset + 39) (bytes.drop 39)) ∧
  (∀ (offset n : Nat) (bytes : List Byte), bytes.length = 4 * n →
    let edge := fun (k : Nat) => natAt bytes (4 * k) 1
    let width := fun (k : Nat) => natAt bytes (4 * k + 1) 1
    let factor := fun (k : Nat) => natAt bytes (4 * k + 2) 2
    let fresh := fun (k : Nat) => edge k ≤ 3 ∧ ∀ j, j < k → edge j ≠ edge k
    let wide := fun (k : Nat) => 1 ≤ width k ∧ width k ≤ 8
    let even := fun (k : Nat) => 128 ≤ factor k ∧ factor k ≤ 256
    ((∀ k, k < n → fresh k ∧ wide k ∧ even k) → trimFault [] offset bytes = none) ∧
    ∀ k, k < n → (∀ j, j < k → fresh j ∧ wide j ∧ even j) →
      (¬ fresh k → trimFault [] offset bytes = some (offset + 4 * k)) ∧
      (fresh k → ¬ wide k → trimFault [] offset bytes = some (offset + 4 * k + 1)) ∧
      (fresh k → wide k → ¬ even k → trimFault [] offset bytes = some (offset + 4 * k + 2)))

/-- R51: from a line idle for 16 periods, the samples of a frame of one byte or more, its bytes with fewer than 16 idle periods behind each,
are read back as its bytes at the sixteenth idle period behind the last, with every stop bit good, and the line is then ready for the next
frame. A stop bit that reads 0 ends its frame there, as a bad one, and after it, as wherever the line has not idled for 16 periods, no start
bit begins a frame: the count of idle periods begins again. -/
def Obligations.SampledFrameRoundTrip : Prop :=
  (∀ frame : List (Byte × Nat), frame ≠ [] → (∀ e ∈ frame, e.2 < 16) →
    (Line.between 16).run ((frame.flatMap fun e => byteSamples e.1 ++ List.replicate e.2 true) ++
      List.replicate (16 - (frame.getLast?.elim 0 Prod.snd)) true) = ([(frame.map Prod.fst, true)], .between 16)) ∧
  (∀ (bytes : List Byte) (idle : Nat) (bits : List Bool), bits.length = 8 →
    (Line.behind bytes idle).run (false :: bits ++ [false]) = ([(bytes, false)], .between 0)) ∧
  (∀ idle n : Nat, idle ≤ 16 → (Line.between idle).run (List.replicate n true) = ([], .between (min 16 (idle + n))) ∧
    (idle + n < 16 → (Line.between idle).run (List.replicate n true ++ [false]) = ([], .between 0)))

/-! ### Invariants -/

/-- Every step keeps every table in its canonical form. -/
def Obligations.EveryStepKeepsTablesCanonical : Prop :=
  ∀ s t : State, s.canonical → step s = .next t → t.canonical

/-- R10, R12, R27, R104: every step keeps the store's directory. -/
def Obligations.EveryStepKeepsTheDirectory : Prop :=
  ∀ s t : State, s.canonical → s.directory → step s = .next t → t.directory

/-- R1, R89, R92, R95: every step keeps every target and applied gain at or below HEADROOM_LIMIT. -/
def Obligations.EveryStepKeepsGainsWithinTheLimit : Prop :=
  ∀ s t : State, s.canonical → s.directory → s.withinLimit → step s = .next t → t.withinLimit

/-- R133, R135, R138, R143: every step keeps the Frame Timing Unit's flags in agreement. -/
def Obligations.EveryStepKeepsTimingSound : Prop :=
  ∀ s t : State, s.ftu.sound → step s = .next t → t.ftu.sound

/-- R53, R78, R117, R174, R175, R182, R195: every step answers a next state and keeps the queues and lists within their bounds, the counters
within 0..65535, the parameters within their ranges and the dither register off zero. -/
def Obligations.EveryStepKeepsTheBounds : Prop :=
  ∀ s : State, ∃ t, step s = .next t ∧ (s.bounded → t.bounded) ∧ (s.countersBounded → t.countersBounded) ∧
    (s.params.inRange → t.params.inRange) ∧ (s.params.inRange → s.ditherSound → t.ditherSound)
end

