-- ==== Sys2Proof/Laws/Bytes.lean ====
section
/-! SUPPORT. Laws/Bytes.lean: fields of bytes read back the numbers that were put into them. -/
namespace Sys2Proof.Machine

@[simp] theorem beBytes_length (n v : Nat) : (beBytes n v).length = n := by
  induction n with
  | zero => rfl
  | succ n ih => simp [beBytes, ih]

@[simp] theorem u16_length (v : Nat) : (u16 v).length = 2 := rfl
@[simp] theorem byteOf_length (v : Nat) : (byteOf v).length = 1 := rfl
@[simp] theorem beInt_length (n : Nat) (v : Int) : (beInt n v).length = n := by simp [beInt]
@[simp] theorem halfBytes_length (v : Half) : (halfBytes v).length = 2 := rfl
@[simp] theorem flagByte_length (b : Bool) : (flagByte b).length = 1 := rfl
@[simp] theorem optU16_length (v : Option Nat) : (optU16 v).length = 2 := by cases v <;> rfl
@[simp] theorem thetaBytes_length (v : Option Int) : (thetaBytes v).length = 2 := by cases v <;> simp [thetaBytes]

/-- The accumulated number of a list of bytes. -/
theorem beNat_fold (l : List Byte) (acc : Nat) :
    l.foldl (fun acc b => acc * 256 + b.toNat) acc = acc * 256 ^ l.length + beNat l := by
  induction l generalizing acc with
  | nil => simp [beNat]
  | cons c l ih =>
    have h0 : beNat (c :: l) = (0 * 256 + c.toNat) * 256 ^ l.length + beNat l := by
      rw [← ih (0 * 256 + c.toNat)]; rfl
    rw [List.foldl_cons, ih, h0, List.length_cons, pow_succ]
    ring

/-- The number of a list of bytes with one more in front. -/
theorem beNat_cons (b : Byte) (bytes : List Byte) : beNat (b :: bytes) = b.toNat * 256 ^ bytes.length + beNat bytes := by
  have h : beNat (b :: bytes) = bytes.foldl (fun acc b => acc * 256 + b.toNat) (0 * 256 + b.toNat) := rfl
  rw [h, beNat_fold]; simp

/-- A number put into `n` bytes is read back modulo 256^n. -/
theorem beNat_beBytes (n v : Nat) : beNat (beBytes n v) = v % 256 ^ n := by
  induction n with
  | zero => simp [beBytes, beNat, Nat.mod_one]
  | succ n ih =>
    have h := Nat.mod_mul (x := v) (a := 256 ^ n) (b := 256)
    have e : 256 ^ (n + 1) = 256 ^ n * 256 := pow_succ 256 n
    rw [beBytes, beNat_cons, ih, beBytes_length, BitVec.toNat_ofNat, e, h]
    norm_num
    ring

theorem beNat_beBytes_of_lt {n v : Nat} (h : v < 256 ^ n) : beNat (beBytes n v) = v := by
  rw [beNat_beBytes, Nat.mod_eq_of_lt h]

/-- A field that lies behind other bytes. -/
theorem natAt_append_right {a b : List Byte} {k n : Nat} (h : a.length ≤ k) : natAt (a ++ b) k n = natAt b (k - a.length) n := by
  simp [natAt, field, List.drop_append, List.drop_eq_nil_of_le h]

/-- A field that lies in front of other bytes. -/
theorem natAt_append_left {a b : List Byte} {k n : Nat} (h : k + n ≤ a.length) : natAt (a ++ b) k n = natAt a k n := by
  simp only [natAt, field]
  rw [List.drop_append_of_le_length (by omega), List.take_append_of_le_length (by simp; omega)]

/-- A whole list of bytes as a field. -/
theorem natAt_all {a : List Byte} {n : Nat} (h : a.length = n) : natAt a 0 n = beNat a := by
  simp [natAt, field, ← h]

theorem natAt_u16 {n : Nat} (h : n < 65536) (more : List Byte) : natAt (u16 n ++ more) 0 2 = n := by
  rw [natAt_append_left (by simp), natAt_all (by simp), u16, beNat_beBytes_of_lt (by omega)]

@[simp] theorem natAt_u16_alone {n : Nat} (h : n < 65536) : natAt (u16 n) 0 2 = n := by
  have := natAt_u16 h []
  simpa using this

theorem natAt_byteOf {n : Nat} (h : n < 256) (more : List Byte) : natAt (byteOf n ++ more) 0 1 = n := by
  rw [natAt_append_left (by simp), natAt_all (by simp)]
  simp [beNat, byteOf, Nat.mod_eq_of_lt h]

@[simp] theorem natAt_byteOf_alone {n : Nat} (h : n < 256) : natAt (byteOf n) 0 1 = n := by
  have := natAt_byteOf h []
  simpa using this

theorem natAt_beBytes {n v : Nat} (h : v < 256 ^ n) (more : List Byte) : natAt (beBytes n v ++ more) 0 n = v := by
  rw [natAt_append_left (by simp), natAt_all (by simp), beNat_beBytes_of_lt h]

theorem natAt_beBytes_alone {n v : Nat} (h : v < 256 ^ n) : natAt (beBytes n v) 0 n = v := by
  have := natAt_beBytes h []
  simpa using this

/-- A 16-bit word put into two bytes is read back. -/
theorem ofNat_natAt_halfBytes (v : Half) (more : List Byte) : BitVec.ofNat 16 (natAt (halfBytes v ++ more) 0 2) = v := by
  rw [halfBytes, natAt_beBytes v.isLt]
  simp

/-- A signed number put into two bytes is read back. -/
theorem beSigned_beInt {v : Int} (h : -32768 ≤ v ∧ v ≤ 32767) : beSigned (beInt 2 v) = v := by
  have h0 : (v % (256 ^ 2 : Int)).toNat < 256 ^ 2 := by omega
  rw [beSigned, beInt, beNat_beBytes_of_lt h0, BitVec.toInt_ofNat']
  simp only [Int.bmod]
  split <;> omega

/-- A run of bytes that lies behind other bytes. -/
theorem field_append_right {a b : List Byte} {k n : Nat} (h : a.length ≤ k) : field (a ++ b) k n = field b (k - a.length) n := by
  simp [field, List.drop_append, List.drop_eq_nil_of_le h]

end Sys2Proof.Machine
end

