-- ==== Sys2Proof/Laws/Tables.lean ====
section
/-! SUPPORT. Laws/Tables.lean: sparse tables read back what was written, and every operation keeps the canonical form. -/
namespace Sys2Proof.Machine

variable {α : Type} [DecidableEq α] {d v : α} {t : Table α} {n m : Nat}

omit [DecidableEq α] in
@[simp] theorem Table.get_nil : Table.get d [] n = d := rfl

theorem Table.wf_nil : Table.wf d ([] : Table α) := by simp [Table.wf]

theorem Table.wf_cons {k : Nat} {w : α} :
    Table.wf d ((k, w) :: t) ↔ (∀ e ∈ t, k < e.1) ∧ w ≠ d ∧ Table.wf d t := by
  simp only [Table.wf, List.pairwise_cons, List.forall_mem_cons]
  tauto

omit [DecidableEq α] in
/-- A key below every listed key reads the default. -/
theorem Table.get_of_below (h : ∀ e ∈ t, n < e.1) : Table.get d t n = d := by
  induction t with
  | nil => rfl
  | cons e t ih =>
    obtain ⟨k, w⟩ := e
    simp only [List.forall_mem_cons] at h
    have : k ≠ n := by have := h.1; omega
    simp [Table.get, this, ih h.2]

/-- Another key reads as before a write. -/
@[simp] theorem Table.get_set_ne (h : m ≠ n) : Table.get d (Table.set d n v t) m = Table.get d t m := by
  induction t with
  | nil => by_cases hv : v = d <;> simp [Table.set, Table.get, hv, h.symm]
  | cons e t ih =>
    obtain ⟨k, w⟩ := e
    simp only [Table.set]
    split
    · split <;> simp [Table.get, h.symm]
    · split
      · subst_vars; split <;> simp [Table.get, h.symm]
      · simp [Table.get, ih]

/-- The key written reads the value written. -/
theorem Table.get_set_same (ht : Table.wf d t) : Table.get d (Table.set d n v t) n = v := by
  induction t with
  | nil => by_cases hv : v = d <;> simp [Table.set, Table.get, hv]
  | cons e t ih =>
    obtain ⟨k, w⟩ := e
    rw [Table.wf_cons] at ht
    simp only [Table.set]
    split
    · rename_i hlt
      split
      · rename_i hv
        have hb : ∀ e ∈ ((k, w) :: t), n < e.1 := by
          intro e he
          rcases List.mem_cons.1 he with rfl | he
          · exact hlt
          · exact lt_trans hlt (ht.1 e he)
        rw [Table.get_of_below hb, hv]
      · simp [Table.get]
    · split
      · rename_i hnk
        subst hnk
        split
        · rename_i hv; rw [Table.get_of_below ht.1, hv]
        · simp [Table.get]
      · rename_i hnk
        have : k ≠ n := fun h => hnk h.symm
        simp [Table.get, this, ih ht.2.2]

/-- The keys of a written table are those of the table, and at most the key written. -/
theorem Table.mem_set_key {e : Nat × α} (h : e ∈ Table.set d n v t) : e ∈ t ∨ e.1 = n := by
  induction t with
  | nil => by_cases hv : v = d <;> simp_all [Table.set]
  | cons f t ih =>
    obtain ⟨k, w⟩ := f
    simp only [Table.set] at h
    split at h
    · split at h
      · exact .inl h
      · rcases List.mem_cons.1 h with rfl | h
        · exact .inr rfl
        · exact .inl h
    · split at h
      · split at h
        · exact .inl (List.mem_cons_of_mem _ h)
        · rcases List.mem_cons.1 h with rfl | h
          · exact .inr rfl
          · exact .inl (List.mem_cons_of_mem _ h)
      · rcases List.mem_cons.1 h with rfl | h
        · exact .inl List.mem_cons_self
        · exact (ih h).imp (List.mem_cons_of_mem _) id

/-- A write keeps the canonical form. -/
theorem Table.wf_set (ht : Table.wf d t) : Table.wf d (Table.set d n v t) := by
  induction t with
  | nil => by_cases hv : v = d <;> simp [Table.set, hv, Table.wf]
  | cons e t ih =>
    obtain ⟨k, w⟩ := e
    have ht' := ht
    rw [Table.wf_cons] at ht
    simp only [Table.set]
    split
    · rename_i hlt
      split
      · exact ht'
      · rename_i hv
        refine Table.wf_cons.2 ⟨?_, hv, ht'⟩
        intro e he
        rcases List.mem_cons.1 he with rfl | he
        · exact hlt
        · exact lt_trans hlt (ht.1 e he)
    · split
      · rename_i hnk
        subst hnk
        split
        · exact ht.2.2
        · rename_i hv; exact Table.wf_cons.2 ⟨ht.1, hv, ht.2.2⟩
      · rename_i hlt hnk
        refine Table.wf_cons.2 ⟨?_, ht.2.1, ih ht.2.2⟩
        intro e he
        rcases Table.mem_set_key he with he | he
        · exact ht.1 e he
        · omega

/-- A map over the entries keeps the canonical form. -/
theorem Table.wf_mapEntries {f : Nat → α → α} (ht : Table.wf d t) : Table.wf d (Table.mapEntries d f t) := by
  refine ⟨?_, ?_⟩
  · refine List.Pairwise.filter _ ?_
    exact List.pairwise_map.2 ht.1
  · intro e he
    have := (List.mem_filter.1 he).2
    simpa using this

/-- What a map over the entries makes of the value at a key, for a map that keeps the default. -/
theorem Table.get_mapEntries {f : Nat → α → α} (hf : f n d = d) (ht : Table.wf d t) :
    Table.get d (Table.mapEntries d f t) n = f n (Table.get d t n) := by
  induction t with
  | nil => simp [Table.mapEntries, hf]
  | cons e t ih =>
    obtain ⟨k, w⟩ := e
    rw [Table.wf_cons] at ht
    have ih := ih ht.2.2
    simp only [Table.mapEntries] at ih
    simp only [Table.mapEntries, List.map_cons, List.filter_cons]
    by_cases hk : k = n
    · subst hk
      have hb : ∀ e ∈ List.filter (fun e => decide (e.2 ≠ d)) (t.map fun e => (e.1, f e.1 e.2)), k < e.1 := by
        intro e he
        obtain ⟨x, hx, rfl⟩ := List.mem_map.1 (List.mem_filter.1 he).1
        exact ht.1 x hx
      by_cases hw : f k w = d
      · simp only [hw, ne_eq, not_true_eq_false, decide_false, Bool.false_eq_true, if_false]
        rw [Table.get_of_below hb]; simp [Table.get, hw]
      · simp [Table.get, hw]
    · by_cases hw : f k w = d
      · simp only [hw, ne_eq, not_true_eq_false, decide_false, Bool.false_eq_true, if_false, ih]
        simp [Table.get, hk]
      · simp only [hw, ne_eq, not_false_eq_true, decide_true, if_true]
        simp only [Table.get, hk, if_false]; exact ih

omit [DecidableEq α] in
/-- A key is listed where its value is not the default. -/
theorem Table.mem_keys_of_get (h : Table.get d t n ≠ d) : n ∈ Table.keys t := by
  induction t with
  | nil => simp at h
  | cons e t ih =>
    obtain ⟨k, w⟩ := e
    simp only [Table.get] at h
    simp only [Table.keys, List.map_cons, List.mem_cons]
    split at h
    · left; omega
    · right; exact ih h

/-- In a canonical table a listed key's value is the one listed with it. -/
theorem Table.get_of_mem {e : Nat × α} (ht : Table.wf d t) (he : e ∈ t) : Table.get d t e.1 = e.2 := by
  induction t with
  | nil => simp at he
  | cons f t ih =>
    obtain ⟨k, w⟩ := f
    rw [Table.wf_cons] at ht
    rcases List.mem_cons.1 he with rfl | he
    · simp [Table.get]
    · have := ht.1 e he
      simp only [Table.get]
      rw [if_neg (by omega)]
      exact ih ht.2.2 he

/-- In a canonical table a listed key's value is not the default. -/
theorem Table.mem_keys_iff (ht : Table.wf d t) : n ∈ Table.keys t ↔ Table.get d t n ≠ d := by
  refine ⟨fun h => ?_, Table.mem_keys_of_get⟩
  obtain ⟨e, he, rfl⟩ := List.mem_map.1 h
  rw [Table.get_of_mem ht he]
  exact ht.2 e he

/-- The keys of a canonical table are without repetition. -/
theorem Table.keys_nodup (ht : Table.wf d t) : (Table.keys t).Nodup := by
  refine List.pairwise_map.2 (ht.1.imp ?_)
  intro a b h; omega

end Sys2Proof.Machine
end

