-- ==== Sys2Proof/Laws/State.lean ====
section
/-! SUPPORT. Laws/State.lean: what each named update of the state changes, field by field. -/
namespace Sys2Proof.Machine

variable (s : State) (p q : Port) (f : PortState → PortState)

/-! ### Ports -/

@[simp] theorem Port.other_ne : p.other ≠ p := by cases p <;> decide
@[simp] theorem Port.other_other : p.other.other = p := by cases p <;> rfl

@[simp] theorem State.port_onPort : (s.onPort p f).port p = f (s.port p) := by cases p <;> rfl
theorem State.port_onPort_ne (h : q ≠ p) : (s.onPort p f).port q = s.port q := by
  cases p <;> cases q <;> first | rfl | exact absurd rfl h

@[simp] theorem State.onPort_store : (s.onPort p f).store = s.store := by cases p <;> rfl
@[simp] theorem State.onPort_index : (s.onPort p f).index = s.index := by cases p <;> rfl
@[simp] theorem State.onPort_freeQueue : (s.onPort p f).freeQueue = s.freeQueue := by cases p <;> rfl
@[simp] theorem State.onPort_batches : (s.onPort p f).batches = s.batches := by cases p <;> rfl
@[simp] theorem State.onPort_seats : (s.onPort p f).seats = s.seats := by cases p <;> rfl
@[simp] theorem State.onPort_trl : (s.onPort p f).trl = s.trl := by cases p <;> rfl
@[simp] theorem State.onPort_driftCounter : (s.onPort p f).driftCounter = s.driftCounter := by cases p <;> rfl
@[simp] theorem State.onPort_ftu : (s.onPort p f).ftu = s.ftu := by cases p <;> rfl
@[simp] theorem State.onPort_cd : (s.onPort p f).cd = s.cd := by cases p <;> rfl
@[simp] theorem State.onPort_cursor : (s.onPort p f).cursor = s.cursor := by cases p <;> rfl
@[simp] theorem State.onPort_load : (s.onPort p f).load = s.load := by cases p <;> rfl
@[simp] theorem State.onPort_params : (s.onPort p f).params = s.params := by cases p <;> rfl
@[simp] theorem State.onPort_lastTaken : (s.onPort p f).lastTaken = s.lastTaken := by cases p <;> rfl
@[simp] theorem State.onPort_seatCheckDue : (s.onPort p f).seatCheckDue = s.seatCheckDue := by cases p <;> rfl
@[simp] theorem State.onPort_draws : (s.onPort p f).draws = s.draws := by cases p <;> rfl
@[simp] theorem State.onPort_upsets : (s.onPort p f).upsets = s.upsets := by cases p <;> rfl
@[simp] theorem State.onPort_pending : (s.onPort p f).pending = s.pending := by cases p <;> rfl
@[simp] theorem State.onPort_record (n : Nat) : (s.onPort p f).record n = s.record n := by cases p <;> rfl
@[simp] theorem State.onPort_seat (n : Nat) : (s.onPort p f).seat n = s.seat n := by cases p <;> rfl
@[simp] theorem State.onPort_lookup (x : Nat) : (s.onPort p f).lookup x = s.lookup x := by cases p <;> rfl
@[simp] theorem State.onPort_ctx : (s.onPort p f).ctx = s.ctx := by cases p <;> rfl

/-! ### An answered message -/

section
variable (rest : List Message) (tag : Byte) (code : AnswerCode) (payload : List Byte)

@[simp] theorem State.answered_store : (s.answered p rest tag code payload).store = s.store := by cases p <;> rfl
@[simp] theorem State.answered_index : (s.answered p rest tag code payload).index = s.index := by cases p <;> rfl
@[simp] theorem State.answered_freeQueue : (s.answered p rest tag code payload).freeQueue = s.freeQueue := by cases p <;> rfl
@[simp] theorem State.answered_batches : (s.answered p rest tag code payload).batches = s.batches := by cases p <;> rfl
@[simp] theorem State.answered_seats : (s.answered p rest tag code payload).seats = s.seats := by cases p <;> rfl
@[simp] theorem State.answered_trl : (s.answered p rest tag code payload).trl = s.trl := by cases p <;> rfl
@[simp] theorem State.answered_ftu : (s.answered p rest tag code payload).ftu = s.ftu := by cases p <;> rfl
@[simp] theorem State.answered_cd : (s.answered p rest tag code payload).cd = s.cd := by cases p <;> rfl
@[simp] theorem State.answered_load : (s.answered p rest tag code payload).load = s.load := by cases p <;> rfl
@[simp] theorem State.answered_params : (s.answered p rest tag code payload).params = s.params := by cases p <;> rfl
@[simp] theorem State.answered_record (n : Nat) : (s.answered p rest tag code payload).record n = s.record n := by cases p <;> rfl
@[simp] theorem State.answered_seat (n : Nat) : (s.answered p rest tag code payload).seat n = s.seat n := by cases p <;> rfl
@[simp] theorem State.answered_answers :
    ((s.answered p rest tag code payload).port p).answers = (s.port p).answers ++ [⟨tag, BitVec.ofNat 8 code.code, payload⟩] := by
  cases p <;> rfl
end

/-! ### Updates within the store -/

@[simp] theorem State.onNu_nu (g : Nu → Nu) : (s.onNu g).store.nu = g s.store.nu := rfl
@[simp] theorem State.onNu_records (g : Nu → Nu) : (s.onNu g).store.records = s.store.records := rfl
@[simp] theorem State.onNu_record (g : Nu → Nu) (n : Nat) : (s.onNu g).record n = s.record n := rfl
@[simp] theorem State.onStore_store (g : Ctx → Store → Store) : (s.onStore g).store = g s.ctx s.store := rfl
@[simp] theorem State.onStore_ctx (g : Ctx → Store → Store) : (s.onStore g).ctx = s.ctx := rfl
@[simp] theorem State.modify_ctx (n : Nat) (g : Record → Record) : (s.modify n g).ctx = s.ctx := rfl

/-- Another slot reads as before a write. -/
@[simp] theorem Store.get_put_ne {st : Store} {n k : Nat} {r : Record} (h : k ≠ n) : (st.put n r).get k = st.get k := by
  simp [Store.get, Store.put, h]

/-- A slot written reads the record written. -/
theorem Store.get_put_same {st : Store} {n : Nat} {r : Record} (h : Table.wf Record.blank st.records) : (st.put n r).get n = r :=
  Table.get_set_same h

@[simp] theorem Store.put_damage {st : Store} {n : Nat} {r : Record} : (st.put n r).damage = st.damage := rfl
@[simp] theorem Store.put_nu {st : Store} {n : Nat} {r : Record} : (st.put n r).nu = st.nu := rfl
@[simp] theorem Store.modify_damage {st : Store} {n : Nat} {g : Record → Record} : (st.modify n g).damage = st.damage := rfl
@[simp] theorem Store.onNu_damage {st : Store} {g : Nu → Nu} : (st.onNu g).damage = st.damage := rfl
@[simp] theorem Store.onNu_records {st : Store} {g : Nu → Nu} : (st.onNu g).records = st.records := rfl
@[simp] theorem Store.onNu_get {st : Store} {g : Nu → Nu} {n : Nat} : (st.onNu g).get n = st.get n := rfl

/-- Another slot reads as before a change. -/
@[simp] theorem Store.get_modify_ne {st : Store} {n k : Nat} {g : Record → Record} (h : k ≠ n) : (st.modify n g).get k = st.get k := by
  simp [Store.modify, h]

/-- A slot changed reads the record changed. -/
theorem Store.get_modify_same {st : Store} {n : Nat} {g : Record → Record} (h : Table.wf Record.blank st.records) :
    (st.modify n g).get n = g (st.get n) := Store.get_put_same h

theorem Store.modify_records_wf {st : Store} {n : Nat} {g : Record → Record} (h : Table.wf Record.blank st.records) :
    Table.wf Record.blank (st.modify n g).records := Table.wf_set h

@[simp] theorem State.record_modify_ne {n k : Nat} {g : Record → Record} (h : k ≠ n) : (s.modify n g).record k = s.record k := by
  simp [State.modify, State.record, h]

theorem State.record_modify_same {n : Nat} {g : Record → Record} (h : Table.wf Record.blank s.store.records) :
    (s.modify n g).record n = g (s.record n) := Store.get_modify_same h

/-- Another seat reads as before a write. -/
@[simp] theorem State.seat_setSeat_ne {n k : Nat} {e : Seat} (h : k ≠ n) : (s.setSeat n e).seat k = s.seat k := by
  simp [State.setSeat, State.seat, seatEntry, h]

/-- A seat written reads the entry written. -/
theorem State.seat_setSeat_same {n : Nat} {e : Seat} (h : Table.wf Seat.vacant s.seats) : (s.setSeat n e).seat n = e :=
  Table.get_set_same h

/-! ### A store without errors -/

section
variable {s}

/-- A read of a store without errors changes nothing. -/
theorem Rt.read_clean {cx : Ctx} {rd : Reader} {n : Nat} {sel : ArrayWord → Bool} {st : Store} (h : st.damage = []) :
    Rt.read cx rd n sel st = st := by
  simp [Rt.read, Store.found, h]

/-- A read of a clean state changes nothing. -/
@[simp] theorem State.read_clean {rd : Reader} {n : Nat} {sel : ArrayWord → Bool} (h : s.clean) : s.read rd n sel = s := by
  have : s.store.damage = [] := h
  simp [State.read, State.onStore, Rt.read_clean this]

/-- A write of the state word of a clean state is the write alone. -/
theorem State.writeStateWord_clean {rd : Reader} {n : Nat} {g : Record → Record} (h : s.clean) :
    s.writeStateWord rd n g = s.modify n g := by
  simp [State.writeStateWord, State.read_clean h]

/-- Nothing is corrected in a store without errors. -/
theorem Store.correct_clean {st : Store} {n : Nat} {sel : ArrayWord → Bool} (h : st.damage = []) : st.correct n sel = st := by
  simp [Store.correct, Store.found, h]

/-- Nothing uncorrectable is found in a store without errors. -/
theorem Store.doubles_clean {st : Store} {n : Nat} {sel : ArrayWord → Bool} (h : st.damage = []) : st.doubles n sel = [] := by
  simp [Store.doubles, Store.found, h]

/-- Words written whole in a store without errors leave it as it is. -/
theorem Store.mend_clean {st : Store} {n : Nat} {sel : ArrayWord → Bool} (h : st.damage = []) : st.mend n sel = st := by
  cases st; simp_all [Store.mend]

/-- A recompute in a store without errors writes the targets of the bank in use, and no more. -/
theorem Dt.recompute_clean {cx : Ctx} {after : After} {n : Nat} {st : Store} (h : st.damage = []) :
    Dt.recompute cx after n st = Dt.retarget cx after n (cx.bankInUse (st.get n)).2 st := by
  simp only [Dt.recompute, Store.correct_clean h, Store.doubles_clean h, List.length_nil, if_true, Dt.recomputeFromBank,
    Ctx.bankInUse, Ctx.fallbackBank]
  split <;> rfl

/-- A slew in a store without errors moves the applied gains, and no more. -/
theorem Dt.slewRecord_clean {cx : Ctx} {step n : Nat} {st : Store} (h : st.damage = []) :
    Dt.slewRecord cx step n st = st.modify n (Record.slewed step) := by
  simp [Dt.slewRecord, Store.correct_clean h, Store.doubles_clean h]

/-- The bank a read of a store without errors gives back is the bank as written. -/
theorem Store.bankRead_clean {st : Store} {n : Nat} {ix : BankIx} {b : Bank} (h : st.damage = []) : st.bankRead n ix b = b := by
  simp [Store.bankRead, Store.doubles_clean h]

end

end Sys2Proof.Machine
end

