-- ==== Sys2Proof/Laws/Store.lean ====
section
/-! SUPPORT. Laws/Store.lean: work done on every record in use, said once. -/
namespace Sys2Proof.Machine

/-- A fold keeps what each of its steps keeps. -/
theorem foldl_keep {σ α : Type} {P : σ → Prop} {f : σ → α → σ} (l : List α) (h : ∀ acc, ∀ x ∈ l, P acc → P (f acc x)) {s : σ} (hs : P s) :
    P (l.foldl f s) := by
  induction l generalizing s with
  | nil => exact hs
  | cons x l ih =>
    exact ih (fun acc y hy => h acc y (List.mem_cons_of_mem _ hy)) (h s x List.mem_cons_self hs)

/-- A property of the store that every piece of work keeps. -/
theorem Store.eachInUse_keep {P : Store → Prop} {f : Nat → Store → Store} (h : ∀ n acc, P acc → P (f n acc)) {st : Store} (hs : P st) :
    P (st.eachInUse f) := foldl_keep _ (fun acc x _ ha => h x acc ha) hs

/-- The form of a store on which work goes on record by record: canonical, and, where `c` is set, without errors. -/
structure Store.Ready (st : Store) : Prop where
  wf : Table.wf Record.blank st.records
  clean : st.damage = []

/-- One piece of work that changes its own slot alone, and keeps the store ready. -/
structure Pointwise (f : Nat → Store → Store) (g : Nat → Record → Record) : Prop where
  ready : ∀ n st, st.Ready → (f n st).Ready
  other : ∀ n st k, st.Ready → k ≠ n → (f n st).get k = st.get k
  own : ∀ n st, st.Ready → (f n st).get n = g n (st.get n)

/-- Pointwise work over a list of slots without repetition. -/
theorem Pointwise.fold {f : Nat → Store → Store} {g : Nat → Record → Record} (h : Pointwise f g) (l : List Nat) (hl : l.Nodup)
    {st : Store} (hs : st.Ready) :
    (l.foldl (fun acc n => f n acc) st).Ready ∧
      ∀ k, (l.foldl (fun acc n => f n acc) st).get k = if k ∈ l then g k (st.get k) else st.get k := by
  induction l generalizing st with
  | nil => exact ⟨hs, fun k => by simp⟩
  | cons n l ih =>
    rw [List.nodup_cons] at hl
    obtain ⟨h1, h2⟩ := ih hl.2 (h.ready n st hs)
    refine ⟨h1, fun k => ?_⟩
    rw [List.foldl_cons, h2]
    by_cases hk : k = n
    · subst hk
      simp [hl.1, h.own k st hs]
    · simp [hk, h.other n st k hs hk]

/-- The slots of the records in use are without repetition. -/
theorem Store.inUseSlots_nodup {st : Store} (hs : Table.wf Record.blank st.records) : st.inUseSlots.Nodup :=
  (Table.keys_nodup hs).filter _

/-- The slots listed are those of the records in use. -/
theorem Store.mem_inUseSlots {st : Store} {n : Nat} : n ∈ st.inUseSlots ↔ (st.get n).inUse = true := by
  simp only [Store.inUseSlots, List.mem_filter, and_iff_right_iff_imp]
  intro h
  refine Table.mem_keys_of_get (d := Record.blank) ?_
  intro h0
  rw [Store.get, h0] at h
  exact absurd h (by decide)

/-- Pointwise work on every record in use changes each of them as it does, and no other slot. -/
theorem Store.get_eachInUse {f : Nat → Store → Store} {g : Nat → Record → Record} (h : Pointwise f g) {st : Store} (hs : st.Ready) :
    (st.eachInUse f).Ready ∧ ∀ k, (st.eachInUse f).get k = if (st.get k).inUse then g k (st.get k) else st.get k := by
  obtain ⟨h1, h2⟩ := h.fold st.inUseSlots (Store.inUseSlots_nodup hs.wf) hs
  refine ⟨h1, fun k => ?_⟩
  rw [Store.eachInUse, h2]
  simp [Store.mem_inUseSlots]

theorem Store.Ready.put {st : Store} (h : st.Ready) {n : Nat} {r : Record} : (st.put n r).Ready := ⟨Table.wf_set h.wf, h.clean⟩
theorem Store.Ready.modify {st : Store} (h : st.Ready) {n : Nat} {g : Record → Record} : (st.modify n g).Ready := h.put
theorem Store.Ready.onNu {st : Store} (h : st.Ready) {g : Nu → Nu} : (st.onNu g).Ready := ⟨h.wf, h.clean⟩

/-- A change of one field after another is pointwise. -/
theorem Pointwise.modify (g : Record → Record) : Pointwise (fun n st => st.modify n g) (fun _ => g) where
  ready _ _ h := h.modify
  other _ _ _ _ hk := Store.get_modify_ne hk
  own _ _ h := Store.get_modify_same h.wf

/-- What a recompute from a bank makes of a record (R89, R90, R93). -/
def Record.retargeted (limit : Nat) (after : After) (bank : Bank) (r : Record) : Record :=
  after.apply { r with target := targetsOf limit bank r.theta r.hours, ceiling := isLimited limit bank r.theta r.hours }

/-- A recompute from a bank changes its own slot alone. -/
theorem Dt.get_retarget_ne {cx : Ctx} {after : After} {n k : Nat} {bank : Bank} {st : Store} (h : k ≠ n) :
    (Dt.retarget cx after n bank st).get k = st.get k := by
  simp only [Dt.retarget]
  split <;> simp [Store.addBoth, h]

/-- A recompute from a bank writes what `Record.retargeted` says. -/
theorem Dt.get_retarget_same {cx : Ctx} {after : After} {n : Nat} {bank : Bank} {st : Store} (h : Table.wf Record.blank st.records) :
    (Dt.retarget cx after n bank st).get n = Record.retargeted cx.limit after bank (st.get n) := by
  simp only [Dt.retarget]
  split <;> simp [Store.addBoth, Store.get_put_same h, Record.retargeted]

theorem Dt.retarget_ready {cx : Ctx} {after : After} {n : Nat} {bank : Bank} {st : Store} (h : st.Ready) :
    (Dt.retarget cx after n bank st).Ready := by
  simp only [Dt.retarget]
  split
  · exact h.put.onNu
  · exact h.put

/-- A recompute of each record that passes a test is pointwise in a store without errors. -/
theorem Pointwise.recompute (cx : Ctx) (after : After) (p : Record → Bool) :
    Pointwise (fun n st => if p (st.get n) then Dt.recompute cx after n st else st)
      (fun _ r => if p r then Record.retargeted cx.limit after (cx.bankInUse r).2 r else r) where
  ready n st h := by
    split
    · rw [Dt.recompute_clean h.clean]; exact Dt.retarget_ready h
    · exact h
  other n st k h hk := by
    split
    · rw [Dt.recompute_clean h.clean, Dt.get_retarget_ne hk]
    · rfl
  own n st h := by
    split
    · rw [Dt.recompute_clean h.clean, Dt.get_retarget_same h.wf]
    · rfl

end Sys2Proof.Machine
end

