-- ==== Sys2Proof/Laws/Claims.lean ====
section
/-! SUPPORT. Laws/Claims.lean: what ending a claim, scheduling, reopening, retiring and allocating can do, said once
for each. -/
namespace Sys2Proof.Machine

variable {s t : State} {n k : Nat} {slots : List Nat} {p : Port}

theorem State.editsOnly_refl (s : State) : State.editsOnly s s := rfl

theorem State.editsOnly_trans {u : State} (h : State.editsOnly s t) (k : State.editsOnly t u) : State.editsOnly s u := by
  simp only [State.editsOnly] at h k ⊢
  rw [h] at k
  exact k

/-! ### A claim ended (R105) -/

/-- Everything a discard does: the slot's record is unclaimed, no other record changes, the slot leaves the lists and the sets, and nothing else
changes (R105). -/
theorem Cu.discard_eq (n : Nat) (s : State) : Cu.discard n s = { s with
    store := s.store.modify n Record.unclaimed
    portA := { s.portA with commitList := s.portA.commitList.filter (· ≠ n), scheduled := s.portA.scheduled.filter (· ≠ n) }
    portB := { s.portB with commitList := s.portB.commitList.filter (· ≠ n), scheduled := s.portB.scheduled.filter (· ≠ n) }
    load := { s.load with scheduled := s.load.scheduled.filter (· ≠ n) } } := rfl

theorem Cu.discard_editsOnly : State.editsOnly s (Cu.discard n s) := rfl

@[simp] theorem Cu.discard_index : (Cu.discard n s).index = s.index := rfl
@[simp] theorem Cu.discard_freeQueue : (Cu.discard n s).freeQueue = s.freeQueue := rfl
@[simp] theorem Cu.discard_nu : (Cu.discard n s).store.nu = s.store.nu := rfl
@[simp] theorem Cu.discard_damage : (Cu.discard n s).store.damage = s.store.damage := rfl
@[simp] theorem Cu.discard_record_ne (h : k ≠ n) : (Cu.discard n s).record k = s.record k := Store.get_modify_ne h

theorem Cu.discard_record_same (h : Table.wf Record.blank s.store.records) : (Cu.discard n s).record n = (s.record n).unclaimed :=
  Store.get_modify_same h

theorem Cu.discard_wf (h : Table.wf Record.blank s.store.records) : Table.wf Record.blank (Cu.discard n s).store.records :=
  Store.modify_records_wf h

@[simp] theorem Record.unclaimed_unclaimed (r : Record) : r.unclaimed.unclaimed = r.unclaimed := rfl

/-- Everything the discarding of several slots does to the records: each of them is unclaimed, and no other changes. -/
theorem Cu.discardAll_records (h : Table.wf Record.blank s.store.records) :
    Table.wf Record.blank (Cu.discardAll slots s).store.records ∧
      ∀ k, (Cu.discardAll slots s).record k = if k ∈ slots then (s.record k).unclaimed else s.record k := by
  induction slots generalizing s with
  | nil => exact ⟨h, fun k => by simp [Cu.discardAll]⟩
  | cons n l ih =>
    obtain ⟨h1, h2⟩ := ih (Cu.discard_wf (n := n) h)
    refine ⟨h1, fun k => (h2 k).trans ?_⟩
    by_cases hk : k = n
    · subst hk; rw [Cu.discard_record_same h]; simp
    · rw [Cu.discard_record_ne hk]; simp [hk]

/-- Beside the records and the lists the discarding of several slots changes nothing. -/
theorem Cu.discardAll_kept : State.editsOnly s (Cu.discardAll slots s) ∧ (Cu.discardAll slots s).index = s.index ∧
    (Cu.discardAll slots s).freeQueue = s.freeQueue ∧ (Cu.discardAll slots s).store.nu = s.store.nu ∧
    (Cu.discardAll slots s).store.damage = s.store.damage := by
  induction slots generalizing s with
  | nil => exact ⟨rfl, rfl, rfl, rfl, rfl⟩
  | cons n l ih =>
    obtain ⟨h1, h2, h3, h4, h5⟩ := ih (s := Cu.discard n s)
    exact ⟨State.editsOnly_trans Cu.discard_editsOnly h1, h2, h3, h4, h5⟩

/-- The lists and the sets lose exactly the slots discarded. -/
theorem Cu.discardAll_lists : (∀ p, ((Cu.discardAll slots s).port p).commitList = (s.port p).commitList.filter (· ∉ slots) ∧
      ((Cu.discardAll slots s).port p).scheduled = (s.port p).scheduled.filter (· ∉ slots)) ∧
    (Cu.discardAll slots s).load = { s.load with scheduled := s.load.scheduled.filter (· ∉ slots) } := by
  induction slots generalizing s with
  | nil => exact ⟨fun p => by simp [Cu.discardAll], by simp [Cu.discardAll]⟩
  | cons n l ih =>
    obtain ⟨h1, h2⟩ := ih (s := Cu.discard n s)
    have hf : ∀ l' : List Nat, (l'.filter (· ≠ n)).filter (· ∉ l) = l'.filter (· ∉ n :: l) := fun l' => by
      rw [List.filter_filter]; congr 1; funext x; by_cases hx : x = n <;> simp [hx]
    refine ⟨fun p => ?_, h2.trans ?_⟩
    · obtain ⟨h3, h4⟩ := h1 p
      refine ⟨h3.trans ?_, h4.trans ?_⟩ <;> cases p <;> exact hf _
    · exact congrArg (fun l' => { s.load with scheduled := l' }) (hf _)

/-- The slots that pass a test a blank record fails. -/
theorem State.mem_slotsWhere {test : Record → Bool} (hb : test Record.blank = false) : n ∈ s.slotsWhere test ↔ test (s.record n) = true := by
  simp only [State.slotsWhere, List.mem_filter, and_iff_right_iff_imp]
  intro h
  refine Table.mem_keys_of_get (d := Record.blank) fun h0 => ?_
  rw [State.record, Store.get, h0, hb] at h
  exact absurd h (by decide)

/-! ### Scheduled and reopened (R115, R119 to R121) -/

theorem Cu.reopen_eq (n : Nat) (s : State) : Cu.reopen n s = s.modify n fun r =>
    { r with condition := .opened, holdTimer := s.params.holdTimeout } := rfl

@[simp] theorem Cu.schedule_record_ne (h : k ≠ n) : (Cu.schedule p n s).record k = s.record k := by
  rw [Cu.schedule, State.onPort_record]
  exact Store.get_modify_ne h

theorem Cu.schedule_record_same (h : Table.wf Record.blank s.store.records) :
    (Cu.schedule p n s).record n = { s.record n with condition := .scheduled } := by
  rw [Cu.schedule, State.onPort_record]
  exact Store.get_modify_same h

/-! ### The pool (R4, R13, R16) -/

/-- A retirement never brings POOL_LOW about, for it only raises the free count: everything it does (R4). -/
theorem Rt.retireEvaluated_eq (n : Nat) (s : State) : Rt.retireEvaluated n s = { s with
    index := Table.set none (s.record n).identity none s.index
    store := (s.store.put n Record.blank).mend n fun _ => true
    freeQueue := s.freeQueue ++ [n] } := by
  have h : (!s.poolLow && (Rt.retire n s).poolLow) = false := by
    simp only [State.poolLow, State.freeCount, Rt.retire, List.length_append, List.length_cons, List.length_nil]
    by_cases h : s.freeQueue.length < s.params.poolLowThreshold
    · simp [h]
    · simp; omega
  rw [Rt.retireEvaluated, State.poolOnset, State.onNu, Store.onNu]
  simp only [Nu.onset, h, Bool.false_eq_true, if_false]
  rfl

theorem Rt.retireEvaluated_record_ne (h : k ≠ n) : (Rt.retireEvaluated n s).record k = s.record k := by
  rw [Rt.retireEvaluated_eq]
  exact Store.get_put_ne h

theorem Rt.retireEvaluated_record_same (h : Table.wf Record.blank s.store.records) : (Rt.retireEvaluated n s).record n = Record.blank := by
  rw [Rt.retireEvaluated_eq]
  exact Store.get_put_same h

/-- An allocation with a free slot takes the head of the queue and nothing else (R13). -/
theorem Rt.allocate_cons {rest : List Nat} (h : s.freeQueue = n :: rest) : Rt.allocate s = (some (n, 0), { s with freeQueue := rest }) := by
  simp [Rt.allocate, h]

theorem Record.reclaimable_iff : (s.record n).reclaimable = true ↔ s.mayReclaim n := by
  simp [Record.reclaimable, State.mayReclaim, and_assoc]

/-- The first of the greatest in a rising list is the one a fold that changes only for a greater one ends with. -/
theorem foldl_greatest {f : Nat → Nat} {v : Nat} {l : List Nat} (hl : l.Pairwise (· < ·)) (hv : v ∈ l)
    (h : ∀ n ∈ l, f n < f v ∨ f n = f v ∧ v ≤ n) :
    l.foldl (fun best n => match best with
      | none => some n
      | some m => if f m < f n then some n else some m) none = some v := by
  obtain ⟨front, back, rfl⟩ := List.append_of_mem hv
  simp only [List.foldl_append, List.foldl_cons]
  have before : ∀ best : Option Nat, (∀ m, best = some m → f m < f v) → ∀ l : List Nat, (∀ n ∈ l, f n < f v) → ∀ m,
      l.foldl (fun best n => match best with
        | none => some n
        | some m => if f m < f n then some n else some m) best = some m → f m < f v := by
    intro best hb l
    induction l generalizing best with
    | nil => exact fun _ => hb
    | cons n l ih =>
      refine fun hn => ih _ (fun m hm => ?_) fun k hk => hn k (List.mem_cons_of_mem _ hk)
      have h0 := hn n List.mem_cons_self
      cases best with
      | none => cases hm; exact h0
      | some b => simp only at hm; split at hm <;> cases hm <;> first | exact h0 | exact hb _ rfl
  have after : ∀ l : List Nat, (∀ n ∈ l, ¬ f v < f n) → l.foldl (fun best n => match best with
      | none => some n
      | some m => if f m < f n then some n else some m) (some v) = some v := by
    intro l hn
    induction l with
    | nil => rfl
    | cons n l ih => simp only [List.foldl_cons, hn n List.mem_cons_self, if_false]; exact ih fun k hk => hn k (List.mem_cons_of_mem _ hk)
  have hp := List.pairwise_append.1 hl
  have hfront := before none nofun front fun n hn => by
    have h1 := hp.2.2 n hn v List.mem_cons_self
    have h2 := h n (List.mem_append_left _ hn)
    omega
  have hback := after back fun n hn => by
    have := h n (List.mem_append_right _ (List.mem_cons_of_mem _ hn))
    omega
  split
  · exact hback
  · rename_i m hm; rw [if_pos (hfront m hm)]; exact hback

/-- The record an auto-reclaim retires is the oldest eligible one (R14). -/
theorem Rt.oldest_of_reclaims (hw : Table.wf Record.blank s.store.records) (h : s.reclaims n) : Rt.oldest s = some n := by
  have listed : ∀ k, s.mayReclaim k → k ∈ (Table.keys s.store.records).filter fun k => (s.record k).reclaimable := fun k hk => by
    refine List.mem_filter.2 ⟨Table.mem_keys_of_get (d := Record.blank) fun h0 => ?_, Record.reclaimable_iff.2 hk⟩
    have := hk.1
    rw [State.record, Store.get, h0] at this
    exact absurd this (by decide)
  refine foldl_greatest (f := fun k => (s.record k).age s.ftu.frameCount) (List.Pairwise.filter _ (List.pairwise_map.2 hw.1))
    (listed n h.1) fun k hk => ?_
  exact h.2 k (Record.reclaimable_iff.1 (List.mem_filter.1 hk).2)

theorem Rt.oldest_none (h : ∀ n, ¬ s.mayReclaim n) : Rt.oldest s = none := by
  have : ((Table.keys s.store.records).filter fun k => (s.record k).reclaimable) = [] :=
    List.filter_eq_nil_iff.2 fun k _ hk => h k (Record.reclaimable_iff.1 hk)
  simp [Rt.oldest, this]

/-- Everything an allocation that gives a slot does: it takes the slot from the head of the queue, or retires the record in it and counts that in
RECLAIMS (R4, R13, R14). -/
theorem Rt.allocate_of_allocates {queue : List Nat} {retired : Option Nat} (hw : Table.wf Record.blank s.store.records)
    (h : s.allocates n queue retired) :
    Rt.allocate s = (some (n, retired.getD 0),
      retired.elim { s with freeQueue := queue } fun _ => { (Rt.retire n s).count .reclaims with freeQueue := queue }) := by
  rcases h with ⟨h1, rfl⟩ | ⟨h1, rfl, h3, h4, rfl⟩
  · exact Rt.allocate_cons h1
  · simp only [Rt.allocate, h1, h3, if_true, Rt.oldest_of_reclaims hw h4]
    simp [Rt.retire, h1, State.count, State.onNu]

/-- An allocation that gives no slot changes nothing (R13). -/
theorem Rt.allocate_of_allocatesNone (h : s.allocatesNone) : Rt.allocate s = (none, s) := by
  obtain ⟨h1, h2⟩ := h
  rcases h2 with h2 | h2 <;> simp only [Rt.allocate, h1, h2, Bool.false_eq_true, if_false]
  split
  · rw [Rt.oldest_none h2]
  · rfl

/-! ### Zones and events -/

/-- The zone check fails exactly outside the four zones; an ABSENT record passes it (R114, R180). -/
theorem State.zonePass_eq_false {seat : Nat} : s.zonePass p (some seat) = false ↔ s.outsideZones p seat := by
  simp only [State.zonePass, List.any_eq_false, Zone.contains, decide_eq_true_eq]
  exact forall₂_congr fun z _ => by omega

/-- An event kind added to both ports is added exactly there where a port is attached. -/
theorem Nu.adds_addBoth (e : Event) (m : Nu) : m.adds (m.addBoth e) e True := fun p => by
  cases p <;> cases ha : m.attachB <;>
    simp [Nu.addBoth, Nu.add, Nu.attached, Nu.setSets, Nu.sets, EventSets.add, Event.mask, ha, Nu.addsAt] <;> cases e <;> simp [Event.number]

end Sys2Proof.Machine
end

