-- ==== Sys2Proof/Laws/Directory.lean ====
section
/-! SUPPORT. Laws/Directory.lean: the directory of a state, checked entry by entry of its tables. -/
namespace Sys2Proof.Machine

variable {s : State}

/-- A record that stands in a slot agrees with the index, the seats and the claims. -/
def State.recordAgrees (s : State) (n : Nat) (r : Record) : Bool :=
  decide (n < 2048 ∧ r.inUse = true ∧ s.lookup r.identity = some ⟨n, r.batch⟩) && (r.seat.all fun k => (s.seat k).kind == .placed n) &&
  decide (r.hold = .none ↔ r.condition = .closed) &&
  ([Port.a, .b].all fun p => decide (r.hold = p.hold → r.condition = .frozen → n ∈ (s.port p).commitList) &&
    decide (r.hold = p.hold → r.condition = .scheduled → n ∈ (s.port p).scheduled)) &&
  decide ((r.hold = .load → n ∈ s.load.list) ∧ (r.hold = .load → r.condition = .scheduled → n ∈ s.load.scheduled)) &&
  decide ((r.hold = .none → r.pendingDamaged = false) ∧ (r.createdByLoad = true → n ∈ s.load.list)) &&
  decide (r.hold = .load → s.load.state = .active ∧ r.condition = .frozen ∨ s.load.state = .committing ∧ r.condition = .scheduled)

/-- Every entry of every table and list agrees with the records. -/
def State.agrees (s : State) : Bool :=
  s.freeQueue == (List.range 2048).filter (fun n => !(s.record n).inUse) &&
  ((Table.keys s.store.records).all fun n => s.recordAgrees n (s.record n)) &&
  ((Table.keys s.index).all fun x => (s.lookup x).all fun e =>
    (s.record e.slot).inUse && (s.record e.slot).identity == x && (s.record e.slot).batch == e.batch) &&
  ((Table.keys s.seats).all fun n => match (s.seat n).kind with | .placed k => (s.record k).seat == some n | _ => true) &&
  ([Port.a, .b].all fun p => decide ((s.port p).commitList.Nodup ∧ (s.port p).scheduled.Pairwise (· < ·)) &&
    ((s.port p).commitList.all fun n => (s.record n).hold == p.hold && (s.record n).condition == .frozen) &&
    ((s.port p).scheduled.all fun n => (s.record n).hold == p.hold && (s.record n).condition == .scheduled)) &&
  decide (s.load.list.Nodup ∧ s.load.scheduled.Pairwise (· < ·)) && (s.load.list.all fun n => (s.record n).hold == .load) &&
  (s.load.scheduled.all fun n => (s.record n).hold == .load && (s.record n).condition == .scheduled)

/-- A state whose tables and lists agree, entry by entry, keeps the directory: a slot that is not listed reads blank, and agrees with every
clause. -/
theorem State.directory_of_agrees (h : s.agrees = true) : s.directory := by
  simp only [State.agrees, Bool.and_eq_true, beq_iff_eq, List.all_eq_true, decide_eq_true_eq, and_assoc, Option.all_eq_true] at h
  obtain ⟨hq, hr, hx, hs, hp, hl, hls, hlm, hlsm⟩ := h
  simp only [State.recordAgrees, Bool.and_eq_true, beq_iff_eq, List.all_eq_true, decide_eq_true_eq, and_assoc, Option.all_eq_true] at hr
  have blank := fun n => (Decidable.em (s.record n = Record.blank)).imp id fun hn => hr n (Table.mem_keys_of_get hn)
  have hb : Record.blank.inUse = false := rfl
  refine ⟨⟨hq ▸ List.nodup_range.filter _, fun n => by simp [hq], fun n hn => ?_, fun n hn => ?_⟩, ⟨fun x e he => ?_, fun n hn => ?_⟩,
    fun n k => ⟨fun hk => ?_, fun hk => ?_⟩, fun n => ?_, fun p => ⟨?_, fun n => ⟨fun hn => ?_, fun hn => ?_⟩⟩,
    fun p => ⟨?_, fun n => ⟨fun hn => ?_, fun hn => ?_⟩⟩, ⟨hl, fun n => ⟨hlm n, fun hn => ?_⟩⟩,
    ⟨hls, fun n => ⟨hlsm n, fun hn => ?_⟩⟩, fun n hn => ?_, fun n hn => ?_, fun n hn => ?_⟩
  · rcases blank n with h | h
    · exact h
    · rw [h.2.1] at hn; cases hn
  · rcases blank n with h | h
    · exact h
    · have := h.1; omega
  · exact hx x (Table.mem_keys_of_get (d := none) (by rw [show Table.get none s.index x = s.lookup x from rfl, he]; nofun)) e he
  · rcases blank n with h | h
    · rw [h, hb] at hn; cases hn
    · exact h.2.2.1
  · have := hs n (Table.mem_keys_of_get (d := Seat.vacant) (fun h => by
      rw [show s.seat n = Seat.vacant from h] at hk; cases hk))
    simpa [hk] using this
  · rcases blank k with h | h
    · rw [h] at hk; cases hk
    · exact h.2.2.2.1 n hk
  · rcases blank n with h | h
    · rw [h]; exact ⟨fun _ => rfl, fun _ => rfl⟩
    · exact h.2.2.2.2.1
  all_goals have port : ∀ p : Port, p ∈ [Port.a, .b] := fun p => by cases p <;> decide
  · exact (hp p (port p)).1
  · exact (hp p (port p)).2.2.1 n hn
  · rcases blank n with h | h
    · rw [h] at hn; exact absurd hn.2 (by decide)
    · exact (h.2.2.2.2.2.1 p (port p)).1 hn.1 hn.2
  · exact (hp p (port p)).2.1
  · exact (hp p (port p)).2.2.2 n hn
  · rcases blank n with h | h
    · rw [h] at hn; exact absurd hn.2 (by decide)
    · exact (h.2.2.2.2.2.1 p (port p)).2 hn.1 hn.2
  · rcases blank n with h | h
    · rw [h] at hn; exact absurd hn (by decide)
    · exact h.2.2.2.2.2.2.1 hn
  · rcases blank n with h | h
    · rw [h] at hn; exact absurd hn.2 (by decide)
    · exact h.2.2.2.2.2.2.2.1 hn.1 hn.2
  · rcases blank n with h | h
    · rw [h]; rfl
    · exact h.2.2.2.2.2.2.2.2.1 hn
  · rcases blank n with h | h
    · rw [h] at hn; exact absurd hn (by decide)
    · exact h.2.2.2.2.2.2.2.2.2.1 hn
  · rcases blank n with h | h
    · rw [h] at hn; exact absurd hn (by decide)
    · exact h.2.2.2.2.2.2.2.2.2.2 hn

end Sys2Proof.Machine
end

