-- ==== Sys2Proof/Laws/Executor.lean ====
section
/-! SUPPORT. Laws/Executor.lean: what the Command Executor does with the message it takes, said once for every command. -/
namespace Sys2Proof.Machine

variable {s : State} {p : Port} {code : Nat} {tag : Byte} {payload : List Byte} {rest : List Message}

/-- A message in turn is the one taken. -/
theorem Cx.take_of_takes (h : s.takes p code tag payload rest) :
    Cx.take s = some (p, ⟨BitVec.ofNat 8 code, tag, payload⟩, s.taken p rest) := by
  obtain ⟨hm, ha, hl, hturn⟩ := h
  have hel : s.eligible p = true := by simp [State.eligible, hm, ha, hl]
  have hnext : s.nextPort = some p := by
    simp only [State.nextPort]
    cases p <;> cases hlt : s.lastTaken <;> simp_all [Port.other]
  simp only [Cx.take, hnext, hm]
  rfl

/-- A command of another code, or none, leaves the state as it is. -/
theorem Cx.run_none {codes : Nat → Bool} {body : Body} (h : Cx.take s = none) : Cx.run codes body s = s := by
  simp [Cx.run, h]

/-- A message of one of the codes is carried out and answered. -/
theorem Cx.run_of_takes {codes : Nat → Bool} {body : Body} (h : s.takes p code tag payload rest)
    (hc : codes (code % 256) = true) :
    Cx.run codes body s =
      Cx.answer p tag (body p payload (s.taken p rest)).1 (body p payload (s.taken p rest)).2 := by
  simp [Cx.run, Cx.take_of_takes h, BitVec.toNat_ofNat, hc]

/-- A command in turn that passes the shared checks is its own part, answered. -/
theorem Cx.command_of_takes {aOnly : Bool} {fits : Nat → Bool} {body : Body} (h : s.takes p code tag payload rest)
    (hc : code < 256) (ha : aOnly = true → p = .a) (hf : fits payload.length = true) :
    Cx.command code aOnly fits body s =
      Cx.answer p tag (body p payload (s.taken p rest)).1 (body p payload (s.taken p rest)).2 := by
  have hb : Cx.checked aOnly fits body p payload (s.taken p rest) = body p payload (s.taken p rest) := by
    cases p <;> cases aOnly <;> simp_all [Cx.checked]
  rw [Cx.command, Cx.run_of_takes h (by simp [Nat.mod_eq_of_lt hc]), hb]

/-- A command of Port A alone is refused to Port B. -/
theorem Cx.command_notPermitted {fits : Nat → Bool} {body : Body} (h : s.takes .b code tag payload rest) (hc : code < 256) :
    Cx.command code true fits body s = s.answered .b rest tag .notPermitted [] := by
  rw [Cx.command, Cx.run_of_takes h (by simp [Nat.mod_eq_of_lt hc])]
  rfl

/-- A payload whose length does not suit is refused. -/
theorem Cx.command_badLength {aOnly : Bool} {fits : Nat → Bool} {body : Body} (h : s.takes p code tag payload rest)
    (hc : code < 256) (ha : aOnly = true → p = .a) (hf : fits payload.length = false) :
    Cx.command code aOnly fits body s = s.answered p rest tag .badField [0xFF] := by
  rw [Cx.command, Cx.run_of_takes h (by simp [Nat.mod_eq_of_lt hc])]
  have hb : Cx.checked aOnly fits body p payload (s.taken p rest) = (.badField lengthFault, s.taken p rest) := by
    cases p <;> cases aOnly <;> simp_all [Cx.checked]
  rw [hb]
  cases p <;> rfl

/-- The answer of a state from which the message has been taken. -/
theorem Cx.answer_taken {r : Reply} : Cx.answer p tag r (s.taken p rest) = s.answered p rest tag r.code r.payload := by
  cases p <;> rfl

/-! ### What taking a message leaves alone -/

@[simp] theorem State.taken_store : (s.taken p rest).store = s.store := by cases p <;> rfl
@[simp] theorem State.taken_index : (s.taken p rest).index = s.index := by cases p <;> rfl
@[simp] theorem State.taken_freeQueue : (s.taken p rest).freeQueue = s.freeQueue := by cases p <;> rfl
@[simp] theorem State.taken_batches : (s.taken p rest).batches = s.batches := by cases p <;> rfl
@[simp] theorem State.taken_seats : (s.taken p rest).seats = s.seats := by cases p <;> rfl
@[simp] theorem State.taken_trl : (s.taken p rest).trl = s.trl := by cases p <;> rfl
@[simp] theorem State.taken_driftCounter : (s.taken p rest).driftCounter = s.driftCounter := by cases p <;> rfl
@[simp] theorem State.taken_ftu : (s.taken p rest).ftu = s.ftu := by cases p <;> rfl
@[simp] theorem State.taken_cd : (s.taken p rest).cd = s.cd := by cases p <;> rfl
@[simp] theorem State.taken_cursor : (s.taken p rest).cursor = s.cursor := by cases p <;> rfl
@[simp] theorem State.taken_load : (s.taken p rest).load = s.load := by cases p <;> rfl
@[simp] theorem State.taken_params : (s.taken p rest).params = s.params := by cases p <;> rfl
@[simp] theorem State.taken_record (n : Nat) : (s.taken p rest).record n = s.record n := by cases p <;> rfl
@[simp] theorem State.taken_seat (n : Nat) : (s.taken p rest).seat n = s.seat n := by cases p <;> rfl
@[simp] theorem State.taken_lookup (x : Nat) : (s.taken p rest).lookup x = s.lookup x := by cases p <;> rfl
@[simp] theorem State.taken_ctx : (s.taken p rest).ctx = s.ctx := by cases p <;> rfl
@[simp] theorem State.taken_notify (q : Port) : (s.taken p rest).notify q = s.notify q := by cases p <;> rfl
@[simp] theorem State.taken_poolLow : (s.taken p rest).poolLow = s.poolLow := by cases p <;> rfl
@[simp] theorem State.taken_freeCount : (s.taken p rest).freeCount = s.freeCount := by cases p <;> rfl
@[simp] theorem State.taken_zones (q : Port) : ((s.taken p rest).port q).zones = (s.port q).zones := by cases p <;> cases q <;> rfl
@[simp] theorem State.taken_answers (q : Port) : ((s.taken p rest).port q).answers = (s.port q).answers := by cases p <;> cases q <;> rfl
@[simp] theorem State.taken_commitList (q : Port) : ((s.taken p rest).port q).commitList = (s.port q).commitList := by
  cases p <;> cases q <;> rfl
@[simp] theorem State.taken_scheduled (q : Port) : ((s.taken p rest).port q).scheduled = (s.port q).scheduled := by
  cases p <;> cases q <;> rfl
@[simp] theorem State.taken_outcome (q : Port) : ((s.taken p rest).port q).outcome = (s.port q).outcome := by cases p <;> cases q <;> rfl
@[simp] theorem State.taken_expiry (q : Port) : ((s.taken p rest).port q).expiry = (s.port q).expiry := by cases p <;> cases q <;> rfl
@[simp] theorem State.taken_zonePass (q : Port) (seat : Option Nat) : (s.taken p rest).zonePass q seat = s.zonePass q seat := by
  cases seat <;> simp [State.zonePass]
@[simp] theorem State.taken_clean : (s.taken p rest).clean ↔ s.clean := by simp [State.clean]

end Sys2Proof.Machine
end

