-- ==== Sys2Proof/Laws/Integrity.lean ====
section
/-! SUPPORT. Laws/Integrity.lean: what a read of a slot through the word protection, a recompute, a condemnation and a slew can do, damage or
not: they change their own slot alone, and of its record neither the directory fields nor whether it is in use. -/
namespace Sys2Proof.Machine

/-- Two records that differ at most in what the protected words hold: the directory fields but pending damaged agree, and both are in use or
neither is (R148, R151). -/
structure Record.Alike (r r' : Record) : Prop where
  inUse : r'.inUse = r.inUse
  active : r'.active = r.active
  generation : r'.generation = r.generation
  bankCheck : r'.bankCheck = r.bankCheck
  hold : r'.hold = r.hold
  condition : r'.condition = r.condition
  createdByLoad : r'.createdByLoad = r.createdByLoad
  holdTimer : r'.holdTimer = r.holdTimer
  expectedCrc : r'.expectedCrc = r.expectedCrc

theorem Record.Alike.refl (r : Record) : r.Alike r := ⟨rfl, rfl, rfl, rfl, rfl, rfl, rfl, rfl, rfl⟩

theorem Record.Alike.trans {a b c : Record} (h : a.Alike b) (k : b.Alike c) : a.Alike c :=
  ⟨k.1.trans h.1, k.2.trans h.2, k.3.trans h.3, k.4.trans h.4, k.5.trans h.5, k.6.trans h.6, k.7.trans h.7, k.8.trans h.8, k.9.trans h.9⟩

/-- A store after work on one slot: the form is kept, every other slot reads as before, the slot's record is alike, and the Notification Unit has
at most gained events and counts. -/
structure Store.Local (slot : Nat) (st st' : Store) : Prop where
  wf : Table.wf Record.blank st.records → Table.wf Record.blank st'.records
  other : ∀ k, k ≠ slot → st'.get k = st.get k
  own : Table.wf Record.blank st.records → (st.get slot).Alike (st'.get slot)
  level : st'.nu.attachB = st.nu.attachB
  enables : st'.nu.a.enabled = st.nu.a.enabled ∧ st'.nu.b.enabled = st.nu.b.enabled

variable {slot : Nat} {st st' st'' : Store} {cx : Ctx}

theorem Store.Local.refl (slot : Nat) (st : Store) : st.Local slot st :=
  ⟨id, fun _ _ => rfl, fun _ => Record.Alike.refl _, rfl, rfl, rfl⟩

theorem Store.Local.trans (h : st.Local slot st') (k : st'.Local slot st'') : st.Local slot st'' :=
  ⟨fun w => k.wf (h.wf w), fun n hn => (k.other n hn).trans (h.other n hn), fun w => (h.own w).trans (k.own (h.wf w)), k.level.trans h.level,
    k.enables.1.trans h.enables.1, k.enables.2.trans h.enables.2⟩

/-- Work that leaves the records alone. -/
theorem Store.Local.of_records (hr : st'.records = st.records) (hn : st'.nu.attachB = st.nu.attachB)
    (ha : st'.nu.a.enabled = st.nu.a.enabled) (hb : st'.nu.b.enabled = st.nu.b.enabled) : st.Local slot st' :=
  have hg : ∀ k, st'.get k = st.get k := fun k => by simp [Store.get, hr]
  ⟨fun w => hr ▸ w, fun k _ => hg k, fun _ => hg slot ▸ Record.Alike.refl _, hn, ha, hb⟩

/-- An alike record written in the slot. -/
theorem Store.Local.modify {f : Record → Record} (h : (st.get slot).Alike (f (st.get slot))) : st.Local slot (st.modify slot f) :=
  ⟨Store.modify_records_wf, fun _ hk => Store.get_modify_ne hk, fun w => Store.get_modify_same w ▸ h, rfl, rfl, rfl⟩

theorem Nu.addBoth_kept (e : Event) (n : Nu) : (n.addBoth e).attachB = n.attachB ∧ (n.addBoth e).a.enabled = n.a.enabled ∧
    (n.addBoth e).b.enabled = n.b.enabled ∧ (n.addBoth e).counters = n.counters := by
  simp only [Nu.addBoth, Nu.add, Nu.attached, Nu.setSets, Nu.sets, EventSets.add]
  split <;> split <;> exact ⟨rfl, rfl, rfl, rfl⟩

theorem Store.Local.addBoth (e : Event) : st.Local slot (st.addBoth e) :=
  have h := Nu.addBoth_kept e st.nu
  .of_records rfl h.1 h.2.1 h.2.2.1

theorem Store.Local.mend (sel : ArrayWord → Bool) : st.Local slot (st.mend slot sel) := .of_records rfl rfl rfl rfl

theorem Store.Local.foundDouble (rd : Reader) (loc : Location) (n : Nat) : st.Local slot (st.foundDouble cx rd slot loc n) :=
  .of_records rfl rfl rfl rfl

theorem Store.Local.correct (sel : ArrayWord → Bool) : st.Local slot (st.correct slot sel) := by
  simp only [Store.correct]
  split
  · exact .refl _ _
  · exact .of_records rfl rfl rfl rfl

theorem Dt.retarget_local (after : After) (bank : Bank) : st.Local slot (Dt.retarget cx after slot bank st) := by
  have h : st.Local slot (st.modify slot fun r => after.apply
      { r with target := targetsOf cx.limit bank r.theta r.hours, ceiling := isLimited cx.limit bank r.theta r.hours }) :=
    .modify (by cases after <;> exact ⟨rfl, rfl, rfl, rfl, rfl, rfl, rfl, rfl, rfl⟩)
  simp only [Dt.retarget]
  split
  · exact h.trans (.addBoth .ceiling)
  · exact h

theorem Dt.clearDrift_local : st.Local slot (Dt.clearDrift slot st) :=
  .trans (.modify ⟨rfl, rfl, rfl, rfl, rfl, rfl, rfl, rfl, rfl⟩) (.mend _)

theorem Dt.recomputeFallback_local (after : After) : st.Local slot (Dt.recomputeFallback cx after slot st) := by
  simp only [Dt.recomputeFallback]
  split
  · exact .trans (.correct _) (Dt.retarget_local after _)
  · exact .trans (.correct _) (.trans (.foundDouble _ _ _) (.trans Dt.clearDrift_local (Dt.retarget_local _ _)))

/-- A record made SUSPECT, where it is in use. -/
theorem Rt.suspect_alike {r : Record} (h : r.inUse = true) (seat : Option Nat) (frame : FrameCount) :
    r.Alike { r with state := .suspect, seat := seat, lastSeen := frame } :=
  ⟨by rw [h]; rfl, rfl, rfl, rfl, rfl, rfl, rfl, rfl, rfl⟩

/-- A state word rebuilt is local, in a slot in use. -/
theorem Rt.rebuildState_local (h : (st.get slot).inUse = true) : st.Local slot (Rt.rebuildState cx slot st) :=
  .trans (.modify (Rt.suspect_alike h _ _)) (.mend _)

theorem Rt.rebuildIdentity_local : st.Local slot (Rt.rebuildIdentity cx slot st) := by
  simp only [Rt.rebuildIdentity]
  split
  · exact .trans (.modify ⟨rfl, rfl, rfl, rfl, rfl, rfl, rfl, rfl, rfl⟩) (.mend _)
  · exact .mend _

/-- Work that leaves the records alone leaves each of them in use or not. -/
theorem Store.get_of_records (h : st'.records = st.records) (n : Nat) : st'.get n = st.get n := by simp [Store.get, h]

theorem Store.correct_get (sel : ArrayWord → Bool) (n : Nat) : (st.correct slot sel).get n = st.get n := by
  simp only [Store.correct]
  split <;> rfl

theorem Rt.writeSuspect_local (h : (st.get slot).inUse = true) : st.Local slot (Rt.writeSuspect cx slot st) := by
  have hc := Store.correct_get (st := st) (slot := slot) isStateWord slot
  simp only [Rt.writeSuspect]
  split
  · refine .trans (.correct isStateWord) (.modify ?_)
    rw [hc]
    exact ⟨by rw [h]; rfl, rfl, rfl, rfl, rfl, rfl, rfl, rfl, rfl⟩
  · refine .trans (.correct isStateWord) (.trans (.foundDouble .rt .state _) (Rt.rebuildState_local ?_))
    exact (congrArg Record.inUse hc).trans h

/-- A condemnation is local, in a slot in use (R151). -/
theorem Rt.condemn_local (h : (st.get slot).inUse = true) (after : After) (stateWord identityWord recompute : Bool) :
    st.Local slot (Rt.condemn cx after stateWord identityWord recompute slot st) := by
  simp only [Rt.condemn]
  refine .trans (st' := if stateWord then Rt.rebuildState cx slot st else Rt.writeSuspect cx slot st) ?_ ?_
  · split
    · exact Rt.rebuildState_local h
    · exact Rt.writeSuspect_local h
  · generalize (if stateWord then Rt.rebuildState cx slot st else Rt.writeSuspect cx slot st) = a
    refine .trans (st' := if identityWord then Rt.rebuildIdentity cx slot a else a) ?_ ?_
    · split
      · exact Rt.rebuildIdentity_local
      · exact .refl _ _
    · generalize (if identityWord then Rt.rebuildIdentity cx slot a else a) = b
      split
      · exact .trans (.addBoth .recordSuspect) (Dt.recomputeFallback_local after)
      · exact .addBoth .recordSuspect

theorem Dt.recomputeFromBank_local (after : After) : st.Local slot (Dt.recomputeFromBank cx after slot st) := by
  simp only [Dt.recomputeFromBank]
  split
  · rename_i hl
    have hu : (st.get slot).inUse = true := by simp [Record.inUse, hl]
    split
    · exact .trans (.correct _) (Dt.retarget_local after _)
    · refine .trans (.correct _) (.trans (.foundDouble .dt .activeBank _) (Rt.condemn_local ?_ after _ _ _))
      exact (congrArg Record.inUse (Store.correct_get _ slot)).trans hu
  · exact Dt.retarget_local after _

theorem Dt.reinitialise_local : st.Local slot (Dt.reinitialise cx slot st) := Dt.clearDrift_local.trans (Dt.recomputeFromBank_local .set)

/-- A recompute is local (R100). -/
theorem Dt.recompute_local (after : After) : st.Local slot (Dt.recompute cx after slot st) := by
  simp only [Dt.recompute]
  split
  · exact .trans (.correct _) (Dt.recomputeFromBank_local after)
  · exact .trans (.correct _) (.trans (.foundDouble _ _ _) Dt.reinitialise_local)

/-- A slew of one record is local (R92, R100). -/
theorem Dt.slewRecord_local (step : Nat) : st.Local slot (Dt.slewRecord cx step slot st) := by
  simp only [Dt.slewRecord]
  split
  · exact .trans (.correct _) (.modify ⟨rfl, rfl, rfl, rfl, rfl, rfl, rfl, rfl, rfl⟩)
  · exact .trans (.correct _) (.trans (.foundDouble _ _ _) Dt.reinitialise_local)

theorem Rt.pendingFound_local (words : List Damage) : st.Local slot (Rt.pendingFound slot words st) := by
  simp only [Rt.pendingFound]
  split
  · refine .trans (st' := st.modify slot fun r => r.setBank r.pendingIx _) (.modify ?_) (.of_records rfl rfl rfl rfl)
    cases h : (st.get slot).pendingIx <;> exact ⟨rfl, rfl, rfl, rfl, rfl, rfl, rfl, rfl, rfl⟩
  · exact .modify (f := fun r => { r with pendingDamaged := true }) ⟨rfl, rfl, rfl, rfl, rfl, rfl, rfl, rfl, rfl⟩

/-- Work done only where a condition holds. -/
theorem Store.Local.thenIf {c : Prop} [Decidable c] (h : st.Local slot st') (k : st'.Local slot st'') :
    st.Local slot (if c then st'' else st') := by
  split
  · exact h.trans k
  · exact h

theorem Rt.consequences_local (h : (st.get slot).inUse = true) (rd : Reader) (words : List Damage) :
    st.Local slot (Rt.consequences cx rd slot words st) := by
  simp only [Rt.consequences]
  exact .thenIf (.thenIf (.thenIf (.foundDouble rd _ _) (Rt.condemn_local (by exact h) _ _ _ _)) (Rt.pendingFound_local _)) Dt.reinitialise_local

/-- A read of a slot through the word protection is local, whatever it finds (R149, R150). -/
theorem Rt.read_local (rd : Reader) (sel : ArrayWord → Bool) : st.Local slot (Rt.read cx rd slot sel st) := by
  simp only [Rt.read]
  split
  · exact .refl _ _
  · split
    · exact .correct _
    · split
      · rename_i hu
        exact .trans (.correct _) (Rt.consequences_local hu _ _)
      · exact .trans (.correct _) (.trans (.foundDouble _ _ _) (.mend _))

/-- The filtered temperature made INVALID is local (R87). -/
theorem Dt.invalidate_local : st.Local slot (Dt.invalidate cx slot st) :=
  .trans (Rt.read_local _ _) (.modify ⟨rfl, rfl, rfl, rfl, rfl, rfl, rfl, rfl, rfl⟩)

/-- The applied gains of a record clamped: local (R95). -/
theorem Dt.clampApplied_local : st.Local slot (Dt.clampApplied cx slot st) :=
  .trans (Rt.read_local _ _) (.modify ⟨rfl, rfl, rfl, rfl, rfl, rfl, rfl, rfl, rfl⟩)

/-! ### Where no word read is damaged -/

/-- A read that finds no damaged word changes nothing, whatever stands in the words it does not read. -/
theorem Rt.read_sound {rd : Reader} {sel : ArrayWord → Bool} (h : st.found slot sel = []) : Rt.read cx rd slot sel st = st := by
  simp [Rt.read, h]

theorem Dt.invalidate_clean (h : st.damage = []) : Dt.invalidate cx slot st = st.modify slot fun r => { r with theta := none } := by
  rw [Dt.invalidate, Rt.read_clean h]

theorem Dt.clampApplied_clean (h : st.damage = []) : Dt.clampApplied cx slot st = st.modify slot (Record.clamped cx.limit) := by
  rw [Dt.clampApplied, Rt.read_clean h]

/-- In a store without errors a removal writes the seat and the temperature of its record, and nothing else (R37, R39, R87). -/
theorem Pu.makeAbsent_clean {s : State} (h : s.clean) :
    Pu.makeAbsent slot s = (s.modify slot fun r => { r with seat := none }).modify slot fun r => { r with theta := none } := by
  rw [Pu.makeAbsent, State.writeStateWord_clean h, State.invalidate, State.onStore, Dt.invalidate_clean (by exact h)]
  rfl

/-- A bank of which no field is taken from elsewhere is as it was. -/
theorem Bank.mix_none {p : BankField → Bool} (h : ∀ f, p f = false) (b c : Bank) : b.mix p c = b := by
  have ht : (List.range b.trims.length).map (Trim.mixAt p b.trims c.trims) = b.trims := by
    refine List.ext_getElem (by simp) fun i hi _ => ?_
    simp at hi
    simp [Trim.mixAt, h, hi]
  simp only [Bank.mix, Prim.mix, h]
  simp [ht]

end Sys2Proof.Machine
end

