-- ==== Sys2Proof/Laws/Link.lean ====
section
/-! SUPPORT. Laws/Link.lean: what a run of samples of the Tile Return Link does to its line, said once for each shape of run. -/
namespace Sys2Proof.Machine

variable {samples more : List Bool} {line : Line} {bytes : List Byte} {b : Byte} {n idle : Nat}

@[simp] theorem Line.run_nil : line.run [] = ([], line) := rfl

/-- Two runs one after the other: the frames of both, and the line after the second. -/
theorem Line.run_append : line.run (samples ++ more) =
    ((line.run samples).1 ++ ((line.run samples).2.run more).1, ((line.run samples).2.run more).2) := by
  induction samples generalizing line with
  | nil => rfl
  | cons bit t ih =>
    simp only [List.cons_append, Line.run]
    split <;> simp [ih]

/-- An idle line counts its idle periods to 16, and no frame ends (R51). -/
theorem Line.run_idle (h : idle ≤ 16) : (Line.between idle).run (List.replicate n true) = ([], .between (min 16 (idle + n))) := by
  induction n generalizing idle with
  | zero => simp [h]
  | succ n ih =>
    have : min 16 (min 16 (idle + 1) + n) = min 16 (idle + (n + 1)) := by omega
    simp only [List.replicate_succ, Line.run, Line.sample, if_true, ih (Nat.min_le_left ..), this]

/-- Idle periods behind a byte, fewer than 16 of them, stay within the frame (R51). -/
theorem Line.run_gap (h : idle + n < 16) : (Line.behind bytes idle).run (List.replicate n true) = ([], .behind bytes (idle + n)) := by
  induction n generalizing idle with
  | zero => rfl
  | succ n ih =>
    have : ¬ 16 ≤ idle + 1 := by omega
    simp only [List.replicate_succ, Line.run, Line.sample, if_true, this, if_false]
    rw [ih (by omega), Nat.add_assoc, Nat.add_comm 1]

/-- The data bits and the stop bit of a byte, behind its start bit (R51). -/
theorem Line.run_bits : (Line.within bytes []).run (byteSamples b).tail = ([], .behind (bytes ++ [b]) 0) := by
  have hb : BitVec.ofNat 8 ([b.getMsbD 0, b.getMsbD 1, b.getMsbD 2, b.getMsbD 3, b.getMsbD 4, b.getMsbD 5, b.getMsbD 6, b.getMsbD 7].foldl
      (fun acc bit => 2 * acc + bit.toNat) 0) = b := by
    revert b; decide +kernel
  simp only [byteSamples, List.tail_cons, Line.run, Line.sample, List.length_nil, List.length_cons, List.nil_append,
    List.cons_append, Nat.reduceAdd, Nat.reduceLT, if_true, if_false, hb]

/-- A whole byte behind others (R51). -/
theorem Line.run_byte : (Line.behind bytes idle).run (byteSamples b) = ([], .behind (bytes ++ [b]) 0) := Line.run_bits

/-- A frame's first byte, on a line that has idled for 16 periods (R51). -/
theorem Line.run_first : (Line.between 16).run (byteSamples b) = ([], .behind [b] 0) := Line.run_bits (bytes := [])

end Sys2Proof.Machine
end

