-- ==== Sys2Proof/Laws/Timing.lean ====
section
/-! SUPPORT. Laws/Timing.lean: the passing of time where no expiry and no loss falls due, and what an expiry, a release and a fallback do, case
by case. -/
namespace Sys2Proof.Machine

variable {s : State} {t : Nat}

/-- With no expiry and no loss before a moment there is no event to take. -/
theorem Ftu.nextEvent_none (he : ∀ e, s.expiryDeadline = some e → t ≤ e) (hl : ∀ l, s.lossDeadline = some l → t ≤ l) :
    Ftu.nextEvent t s = none := by
  simp only [Ftu.nextEvent]
  split
  · rename_i e l h1 h2
    have := he e h1
    have := hl l h2
    rw [if_neg (by omega), if_neg (by omega)]
  · rename_i e h1 _
    have := he e h1
    rw [if_neg (by omega)]
  · rename_i l _ h2
    have := hl l h2
    rw [if_neg (by omega)]
  · rfl

/-- With no expiry and no loss before a moment, moving there moves the clock and nothing else. -/
theorem State.advance_quiet (he : ∀ e, s.expiryDeadline = some e → t ≤ e) (hl : ∀ l, s.lossDeadline = some l → t ≤ l) :
    s.advance t = { s with ftu := { s.ftu with now := max s.ftu.now t } } := by
  have h : ∀ fuel, Ftu.runEvents fuel t s = s := fun fuel => by
    cases fuel with
    | zero => rfl
    | succ n => simp [Ftu.runEvents, Ftu.nextEvent_none he hl]
  rw [State.advance, h]
  rfl

/-- What an expiry at its moment does on each timing (R137). -/
theorem Ftu.expire_internal (hc : s.ftu.current = .internal) (hh : s.ftu.expiryHeld = false) : Ftu.expire s = boundary s := by
  simp [Ftu.expire, hc, hh]

theorem Ftu.expire_switch (hc : s.ftu.current = .external) (hr : s.ftu.requested = .internal) :
    Ftu.expire s = boundary (s.onFtu fun f => { f with current := .internal, switchPending := false }) := by
  simp [Ftu.expire, hc, hr]

theorem Ftu.expire_none (h : s.ftu.current = .external ∧ s.ftu.requested = .external ∨ s.ftu.current = .internal ∧ s.ftu.expiryHeld = true) :
    Ftu.expire s = s := by
  rcases h with ⟨h1, h2⟩ | ⟨h1, h2⟩ <;> simp [Ftu.expire, h1, h2]

/-- A boundary placed at the next expiry: at once where that has passed, and not yet where it lies ahead (R140, R143). -/
theorem Ftu.boundaryIfPassed_of_le (h : s.ftu.nextExpiry ≤ s.ftu.now) : Ftu.boundaryIfPassed s = boundary s := if_pos h

theorem Ftu.boundaryIfPassed_of_lt (h : s.ftu.now < s.ftu.nextExpiry) : Ftu.boundaryIfPassed s = s := if_neg (by omega)

/-- What follows the monitor's leaving LOCKED on each timing (R140, R143). -/
theorem Ftu.unlocked_external (hc : s.ftu.current = .external) : Ftu.unlocked s = Ftu.fallback s := if_pos hc

theorem Ftu.unlocked_held (hc : s.ftu.current = .internal) (hh : s.ftu.expiryHeld = true) : Ftu.unlocked s = Ftu.release s := by
  simp [Ftu.unlocked, hc, hh]

theorem Ftu.unlocked_internal (hc : s.ftu.current = .internal) (hh : s.ftu.expiryHeld = false) : Ftu.unlocked s = s := by
  simp [Ftu.unlocked, hc, hh]

/-- A condition that does not begin adds nothing. -/
theorem Nu.onset_of_before {e : Event} {after : Bool} {n : Nu} : Nu.onset e true after n = n := rfl

theorem Nu.onset_of_not_after {e : Event} {before : Bool} {n : Nu} : Nu.onset e before false n = n := by
  simp [Nu.onset]

end Sys2Proof.Machine
end

