-- ==== Sys2Proof/Tests/Slice0.lean ====
section
/-! SUPPORT. Tests/Slice0.lean: the manual's worked examples, the smoke test of WellFormed, and for every statement with hypotheses a
concrete state and operands that meet them, at the ends of their ranges. -/
open Sys2Proof Sys2Proof.Machine

namespace Sys2Proof.Tests

/-! ### WellFormed -/

/-- A MESSAGE_WRITE whose first byte makes it an answer read is refused. -/
theorem test_wf_refuses_answer_read : (Instr.messageWrite .a [0x02, 0x00]).wf = false := by decide

/-- A REPORT_ARRIVAL without a sample is refused. -/
theorem test_wf_refuses_no_samples : (Instr.reportArrival []).wf = false := by decide

theorem test_wf_accepts : (Instr.messageWrite .a [0x01, 0x00]).wf = true ∧ (Instr.reportArrival (frameSamples [3])).wf = true := by
  decide +kernel

/-- No word spells a command: no row of the table gives bits. -/
theorem test_no_word_spells_a_command : decodeTableWord 8 0x10 = none ∧ State.reset.withFetchWord 8 0x10 = State.reset := ⟨rfl, rfl⟩

/-! ### The manual's worked examples -/

/-- 05, 5.9: red B = 30000, k = 1200, a = 40, Δ = 40 at 12000 hours gives 32271. -/
theorem test_drift_target : unlimitedTarget 30000 1200 40 (delta (some 90) 50) 12000 = 32271 := by decide +kernel

/-- 05, 5.9: four readings of 100 from 90, then 98 and 90. -/
theorem test_filter : filterTheta (some 90) 100 = 92 ∧ filterTheta (some 92) 100 = 94 ∧ filterTheta (some 94) 100 = 95 ∧
    filterTheta (some 95) 100 = 96 ∧ filterTheta (some 96) 98 = 97 ∧ filterTheta (some 97) 90 = 96 := by decide

/-- 05, 5.9: 32240 reaches 32271 at the fourth boundary, and 32000 needs 61 boundaries to 32483. -/
theorem test_slew : slewGain 8 32240 32271 = 32248 ∧ slewGain 8 32264 32271 = 32271 ∧ boundariesToTarget 8 32000 32483 = 61 := by decide

/-- 04, 4.7: the first four states of the dither register and their values. -/
theorem test_dither : ditherStep 0x2D1B = 0x5A37 ∧ ditherStep 0x5A37 = 0x346F ∧ ditherStep 0x346F = 0x68DF ∧
    ditherValues true 0x2D1B = ⟨11, 1, 13⟩ ∧ ditherValues true 0x5A37 = ⟨7, 3, 10⟩ ∧ ditherValues true 0x68DF = ⟨15, 13, 8⟩ := by
  decide +kernel

/-- 04, 4.7: the red component of the drifted seat's pixel, with dithering OFF. -/
theorem test_drifted_pixel : correctOne ⟨15800, 420, -150⟩ ⟨40000, 20000, 10000⟩ 32271 256 8 = (38404, 0) := by decide +kernel

/-- 04, 4.7: the corner pixel with two clamps. -/
theorem test_corner_pixel :
    correctPixel ⟨⟨16200, -300, -100⟩, ⟨-900, 16900, -300⟩, ⟨-200, -350, 17600⟩⟩ [⟨.top, 4, 224⟩, ⟨.left, 2, 200⟩] ⟨31000, 29800, 30500⟩
      ⟨128, 128, true⟩ 129 0x2D1B ⟨60000, 500, 65535⟩ = (⟨38102, 0, 41699⟩, 2) := by decide +kernel

/-- R14: at frame count 500, last seen 4294967000 is an age of 796. -/
theorem test_age_wraps : ({ Record.blank with lastSeen := 4294967000 } : Record).age 500 = 796 := by decide +kernel

/-- 07, 7.9: while the monitor is LOCKED with a switch pending, a pulse 8332 after the boundary holds the expiry, and one 24999 after it is
boundary 1013 and completes the switch. -/
def waiting (last : Nat) (held : Bool) : State :=
  { State.reset with ftu := { Ftu.reset with
      now := last, expiryHeld := held, monitor := if held then .locked else .acquiring 7, lastPulse := some last, lastBoundary := 208337,
      nextExpiry := 225004, frameCount := 1012 } }

/-- The moment, the frame count, the current source, and the pending and held flags of a state. -/
def timing (s : State) : Nat × FrameCount × Source × Bool × Bool :=
  (s.ftu.now, s.ftu.frameCount, s.ftu.current, s.ftu.switchPending, s.ftu.expiryHeld)

theorem test_early_pulse_holds : timing (Ftu.pulse ((waiting 200002 false).advance 216669)) = (216669, 1012, .internal, true, true) := by
  decide +kernel

theorem test_held_pulse_switches : timing (Ftu.pulse ((waiting 216669 true).advance 233336)) = (233336, 1013, .external, false, false) := by
  decide +kernel

/-- 11, 11.5: the allocation that takes the free count below POOL_LOW_THRESHOLD adds POOL_LOW, and the next does not add it again. -/
theorem test_pool_low_onset : (Nu.onset .poolLow false true (Nu.mk ⟨0, 0⟩ ⟨0, 0⟩ true Counters.zero)).a.pending = 0x20 ∧
    (Nu.onset .poolLow true true (Nu.mk ⟨0, 0⟩ ⟨0, 0⟩ true Counters.zero)).a.pending = 0 := by decide +kernel

/-- R51: behind a stop bit that reads 0 the line does not take up the next frame before it has idled for 16 periods. -/
theorem test_bad_stop_bit_ends_the_frame : (Line.between 16).run (false :: List.replicate 8 true ++ false :: frameSamples [3] ++ byteSamples 5) =
    ([([], false)], .behind [5] 0) := by decide +kernel

/-- R51: 15 idle periods before a start bit are too few. -/
theorem test_start_bit_needs_sixteen_idle_periods : ((Line.between 0).run (List.replicate 15 true ++ frameSamples [0xFF])).1 = [] := by
  decide +kernel

/-! ### Small states -/

/-- A state in which a port, attached and in its turn, has one message waiting and no answer. -/
def sending (p : Port) (code : Nat) (payload : List Byte) (s : State) : State :=
  { ({ s with store := { s.store with nu := { s.store.nu with attachB := true } } } : State).onPort p fun q =>
      { q with messages := [⟨BitVec.ofNat 8 code, 9, payload⟩], answers := [] } with lastTaken := p.other }

theorem sending_takes {p : Port} {code : Nat} {payload : List Byte} {s : State} :
    (sending p code payload s).takes p code 9 payload [] := by
  cases p <;> exact ⟨rfl, rfl, Nat.succ_pos 3, fun _ => rfl⟩

theorem sending_canonical {p : Port} {code : Nat} {payload : List Byte} {s : State} (h : s.canonical) :
    (sending p code payload s).canonical := by
  cases p <;> exact h

/-- A valid bank with its fields at the ends of their ranges. -/
def edgeBank : Bank where
  matrix := ⟨⟨32767, -32768, 0⟩, ⟨0, 16384, 0⟩, ⟨0, 0, 16384⟩⟩
  gains := ⟨65535, 0, 30000⟩
  thetaRef := 200
  thermal := ⟨-32768, 32767, 0⟩
  aging := ⟨65535, 0, 1⟩
  trims := [⟨.top, 8, 256⟩, ⟨.bottom, 1, 128⟩, ⟨.left, 2, 200⟩, ⟨.right, 3, 250⟩]

theorem edgeBank_valid : edgeBank.valid = true := by decide

/-- The greatest identity. -/
def serial : Nat := 2 ^ 48 - 1

/-- A record in use, unheld and ABSENT. -/
def tile : Record := { Record.blank with
  state := .live, identity := serial, batch := 65535, bank0 := edgeBank, theta := some 90, hours := 12000, target := ⟨32768, 0, 30000⟩
  applied := ⟨32760, 8, 30000⟩ }

/-- The same record placed at the last seat. -/
def hung : Record := { tile with seat := some 1535 }

/-- The same record held by a port. -/
def heldBy (p : Port) (c : Condition) : Record := { tile with hold := p.hold, condition := c, holdTimer := 60 }

/-- A wall of one record, in the last slot, with the seat entry that goes with it. -/
def wall (r : Record) : State := { State.reset with
  store := { Store.reset true with records := [(2047, r)] }
  index := [(r.identity, some ⟨2047, r.batch⟩)]
  freeQueue := List.range 2047
  seats := r.seat.elim [] fun n => [(n, ⟨.placed 2047, .reported, .fresh, 0⟩)] }

theorem wall_canonical {r : Record} (h : r ≠ Record.blank) : (wall r).canonical := by
  refine ⟨⟨by simp [wall], ?_⟩, ⟨by simp [wall], by simp [wall]⟩, ⟨by simp [wall, State.reset], by simp [wall, State.reset]⟩,
    ⟨?_, ?_⟩, ?_⟩
  · simpa [wall] using h
  · cases hs : r.seat <;> simp [wall, hs]
  · cases hs : r.seat <;> simp [wall, hs, Seat.vacant]
  · exact (by decide : Table.wf 255#8 ([] : Table Byte) ∧ Table.wf SnapEntry.dark ([] : Table SnapEntry) ∧
      Table.wf 0 ([] : Table Nat) ∧ Table.wf 0 ([] : Table Nat))

theorem wall_record {r : Record} (n : Nat) : (wall r).record n = if n = 2047 then r else Record.blank := by
  simp only [State.record, Store.get, wall, Table.get, eq_comm (a := n)]

theorem wall_seat {r : Record} (n : Nat) :
    (wall r).seat n = if r.seat = some n then ⟨.placed 2047, .reported, .fresh, 0⟩ else Seat.vacant := by
  cases hs : r.seat <;> simp [State.seat, seatEntry, wall, Table.get, hs]

theorem sending_directory {p : Port} {code : Nat} {payload : List Byte} {s : State} (h : s.directory) :
    (sending p code payload s).directory := by
  obtain ⟨h1, h2, h3, h4, h5, h6, h7⟩ := h
  cases p <;> exact ⟨h1, h2, h3, h4, fun q => by cases q <;> first | exact h5 .a | exact h5 .b, fun q => by
    cases q <;> first | exact h6 .a | exact h6 .b, h7⟩

/-- A wall of some records, in rising slots, with rising identities and at rising seats: with the tables and the lists that go with them. -/
def wallOf (records : List (Nat × Record)) : State :=
  let s : State := { State.reset with
    store := { Store.reset true with records := records }
    index := records.map fun e => (e.2.identity, some ⟨e.1, e.2.batch⟩)
    freeQueue := (List.range 2048).filter fun n => records.all fun e => e.1 != n
    seats := records.filterMap fun e => e.2.seat.map fun n => (n, ⟨.placed e.1, .reported, .fresh, 0⟩) }
  let those := fun (h : Hold) (c : Condition) => s.slotsWhere fun r => r.hold == h && r.condition == c
  { s with
    portA := { s.portA with commitList := those .portA .frozen, scheduled := those .portA .scheduled }
    portB := { s.portB with commitList := those .portB .frozen, scheduled := those .portB .scheduled }
    load := { s.load with list := s.slotsWhere fun r => r.hold == .load, scheduled := those .load .scheduled } }

/-- A state with a damaged word, or with several. -/
def damaged (l : List Damage) (s : State) : State := { s with store := { s.store with damage := l } }

theorem damaged_directory {l : List Damage} {s : State} (h : s.directory) : (damaged l s).directory := h

theorem damaged_canonical {l : List Damage} {s : State} (h : s.canonical) : (damaged l s).canonical := h

/-! ### The hypotheses of the statements are met -/

theorem witness_StepRunsFrontCommandOrPassesTime :
    ({ State.reset with pending := [.identify, .lost] } : State).pending = .identify :: [.lost] ∧
    let s : State := { State.reset with ftu := { Ftu.reset with now := 16666 } }
    s.pending = [] ∧ s.upsets = [] ∧ (∀ e, s.expiryDeadline = some e → s.ftu.now < e) ∧
      (∀ l, s.lossDeadline = some l → s.ftu.now < l) := by
  refine ⟨rfl, rfl, rfl, ?_, ?_⟩ <;> intro _ h <;> cases h
  decide

/-- A bit flip waits at the edge of an expiry, and its word holds no flipped bit, another one, this one, or both. -/
theorem witness_StepLandsAnUpset : ∀ l ∈ [[], [⟨2047, .state, [0]⟩], [⟨2047, .state, [71]⟩], [(⟨2047, .state, [0, 71]⟩ : Damage)]],
    let s : State := { damaged l State.reset with upsets := [⟨2047, .state, 71⟩], ftu := { Ftu.reset with now := 16666 } }
    s.pending = [] ∧ s.upsets = [⟨2047, .state, 71⟩] ∧ (∀ e, s.expiryDeadline = some e → s.ftu.now < e) ∧
      (∀ l, s.lossDeadline = some l → s.ftu.now < l) ∧ s.store.damage = l ∧ 71 ∉ [0] ∧ 71 ∈ [71] ∧ [71].filter (· ≠ 71) = [] ∧ 71 ∈ [0, 71] ∧
      [0, 71].filter (· ≠ 71) ≠ [] := by
  refine fun l _ => ⟨rfl, rfl, ?_, ?_, rfl, by decide⟩ <;> intro _ h <;> cases h
  show 16666 < 16667; decide

/-- Three messages wait at Port B, and a message of 250 bytes has room; with four it has none. -/
def crowded (n : Nat) : State :=
  { wall tile with portB := { (wall tile).portB with messages := List.replicate n ⟨0, 0, []⟩ } }

theorem witness_MessagesJoinOrAreDiscarded :
    ((crowded 3).store.nu.attached .b = true ∧ ((crowded 3).port .b).messages.length < 4 ∧
      (⟨0x10, 1, List.replicate 250 0⟩ : Message).payload.length ≤ 250) ∧
    ((crowded 3).store.nu.attached .b = true ∧ (0x03 : Byte) ≠ 0x02 ∧ ∀ m : Message, m.payload.length ≤ 250 → 0x03 :: [] ≠ m.bytes) ∧
    (crowded 4).store.nu.attached .b = true ∧ (0x01 : Byte) ≠ 0x02 ∧ 4 ≤ ((crowded 4).port .b).messages.length := by
  refine ⟨⟨rfl, by decide, Nat.le_of_eq List.length_replicate⟩, ⟨rfl, by decide, fun m _ h => ?_⟩, rfl, by decide, by decide⟩
  have := congrArg List.head? h
  simp [Message.bytes] at this

theorem witness_AnswerReadReturnsTheHeadAnswer : (wall tile).store.nu.attached .b = true ∧ ((wall tile).port .b).answers = [] ∧
    let s : State := { State.reset with portA := { State.reset.portA with answers := [⟨1, 0, [5]⟩] } }
    s.store.nu.attached .a = true ∧ (s.port .a).answers = [⟨1, 0, [5]⟩] ∧ 5 + [(5 : Byte)].length ≤ 6 := ⟨rfl, rfl, rfl, rfl, by decide⟩

theorem witness_PortBTakesTransactionsOnlyWhileAttached : State.reset.store.nu.attachB = false := rfl

/-- A load that a port owns, in a state, on a wall of one record. -/
def loading (p : Port) (c : LoadState) : State := { wall tile with load := { Load.reset with state := c, owner := some p } }

theorem loading_canonical {p : Port} {c : LoadState} : (loading p c).canonical := by
  obtain ⟨h1, h2, h3, h4, h5⟩ := wall_canonical (r := tile) (by decide)
  exact ⟨h1, h2, h3, h4, h5⟩

theorem held_canonical {p : Port} {c : Condition} : (wall (heldBy p c)).canonical := wall_canonical (by cases p <;> cases c <;> decide)

/-- A record the load holds. -/
def loadedTile : Record := { hung with hold := .load, condition := .frozen, createdByLoad := false }

/-- A record the load has created, which is ABSENT. -/
def madeTile : Record := { Record.blank with state := .new, identity := 1, hold := .load, condition := .frozen, createdByLoad := true }

/-- A load of Port B that has taken an existing record, which hangs, and created another. -/
def loadedWall : State :=
  let s := wallOf [(2046, madeTile), (2047, loadedTile)]
  { s with load := { s.load with state := .active, owner := some .b, remaining := 3, lastSlot := some 2047 } }

theorem loadedWall_canonical : loadedWall.canonical := by unfold State.canonical; decide +kernel

theorem loadedWall_directory : loadedWall.directory := State.directory_of_agrees (by decide +kernel)

/-- A claim of Port B without a load; a load of Port B that has taken and created records; and the line already low. -/
theorem witness_DetachClearsWhatPortBLeft :
    (let s := wallOf [(2047, heldBy .b .scheduled)];
      s.canonical ∧ s.directory ∧ s.store.nu.attachB = true ∧ (s.record 2047).hold = .portB ∧ (s.record 2046).hold ≠ .portB ∧
        s.load.owner ≠ some .b) ∧
    (loadedWall.canonical ∧ loadedWall.directory ∧ loadedWall.store.nu.attachB = true ∧ loadedWall.load.owner = some .b ∧
      loadedWall.load.inProgress = true ∧ loadedWall.createdAbsent = [2046] ∧ loadedWall.load.list = [2046, 2047]) ∧
    State.reset.store.nu.attachB = false :=
  ⟨⟨by unfold State.canonical; decide +kernel, State.directory_of_agrees (by decide +kernel), rfl, rfl, by decide, nofun⟩,
    ⟨loadedWall_canonical, loadedWall_directory, rfl, rfl, rfl, by decide, by decide⟩, rfl⟩

theorem witness_ExecutorTakesTurnsAndRefusesUnknownCodes :
    (0xFF < 256 ∧ 0xFF ∉ knownCodes ∧ (sending .b 0xFF [1] State.reset).takes .b 0xFF 9 [1] []) ∧
    ((sending .a 0x00 [] State.reset).eligible .a = true ∧
      ((sending .a 0x00 [] State.reset).eligible Port.a.other = true → (sending .a 0x00 [] State.reset).lastTaken = Port.a.other)) :=
  ⟨⟨by decide, by decide, sending_takes⟩, rfl, fun _ => rfl⟩

theorem witness_SharedChecksRefuseBeforeAnyEffect :
    ((Instr.wallReset, 0x05) ∈ portAOnly ∧
      (sending .b 0x05 [] State.reset).takes .b 0x05 9 [] []) ∧
    ((Instr.loadBegin, 0x50, 2) ∈ payloadLengths ∧ [(1 : Byte)].length ≠ 2 ∧
      (sending .a 0x50 [1] State.reset).takes .a 0x50 9 [1] []) :=
  ⟨⟨by decide, sending_takes⟩, by decide, by decide, sending_takes⟩

/-- A wrong length at Port B, and one byte less than each of the three least lengths. -/
theorem witness_LengthsAreCheckedAtBothPorts :
    ((Instr.readTiming, 0x41, 0) ∈ payloadLengths ∧ [(1 : Byte)].length ≠ 0 ∧ (Instr.readTiming, 0x41) ∉ portAOnly ∧
      (sending .b 0x41 [1] State.reset).takes .b 0x41 9 [1] []) ∧
    (sending .a 0x16 (List.replicate 40 0) State.reset).takes .a 0x16 9 (List.replicate 40 0) [] ∧
    ((Instr.writeBank, 0x31) ∉ portAOnly ∧ (sending .b 0x31 [0, 0] State.reset).takes .b 0x31 9 [0, 0] []) ∧
    (Instr.loadRecord, 0x51) ∉ portAOnly ∧ (sending .b 0x51 (List.replicate 48 0) State.reset).takes .b 0x51 9 (List.replicate 48 0) [] :=
  ⟨⟨by decide, by decide, by decide, sending_takes⟩, sending_takes, ⟨by decide, sending_takes⟩, by decide, sending_takes⟩

theorem witness_IdentityAndParametersAreRead :
    (sending .b 0x00 [] State.reset).takes .b 0x00 9 [] [] ∧
    (paramOf 0x10 = some .driftGap ∧ (sending .b 0x02 (byteOf 0x10) State.reset).takes .b 0x02 9 (byteOf 0x10) []) ∧
    (0x10 < 0x11 ∧ 0x11 < 256 ∧ (sending .b 0x02 (byteOf 0x11) State.reset).takes .b 0x02 9 (byteOf 0x11) []) :=
  ⟨sending_takes, ⟨rfl, sending_takes⟩, by decide, by decide, sending_takes⟩

/-- The wall with no free slot. -/
def wallFull : State := { wall tile with freeQueue := [] }

/-- No switch is pending. -/
def settled : State := { State.reset with ftu := { Ftu.reset with requested := .internal, switchPending := false } }

/-- A SET_PARAMETER of a number and a value stands at the head of Port A's queue, in its turn. -/
def Setting (s : State) (number value : Nat) : Prop :=
  (sending .a 0x01 (byteOf number ++ beBytes 4 value) s).takes .a 0x01 9 (byteOf number ++ beBytes 4 value) []

theorem setting {s : State} {number value : Nat} : Setting s number value := sending_takes

theorem witness_SetParameterStoresOrIsRefused :
    (paramOf 0x01 = some .headroomLimit ∧ 4294967295 < 2 ^ 32 ∧ Setting State.reset 0x01 4294967295) ∧
    (paramOf 0x09 = some .autoReclaim ∧ 1 ≤ 1 ∧ Setting State.reset 0x09 1) ∧
    (paramOf 0x0E = some .nominalPeriod ∧ Setting settled 0x0E 3999 ∧ settled.ftu.switchPending = false) ∧
    (paramOf 0x05 = some .ditherSeed ∧ .ditherSeed ∉ [Param.headroomLimit, .fallbackGain, .poolLowThreshold, .nominalPeriod] ∧
      Setting State.reset 0x05 0) ∧
    (0x10 < 0x11 ∧ Setting State.reset 0x11 0) ∧ (1 < 2 ∧ Setting State.reset 0x08 2) ∧
    (Setting State.reset 0x0E 20000 ∧ State.reset.ftu.switchPending = true) ∧
    (paramOf 0x0A = some .poolLowThreshold ∧ Setting wallFull 0x0A 2048) ∧
    (Setting settled 0x0E 4000 ∧ settled.ftu.now < settled.ftu.lastBoundary + 4000 ∧ settled.ftu.lastPulse = none) :=
  ⟨⟨rfl, by decide, setting⟩, ⟨rfl, by decide, setting⟩, ⟨rfl, setting, rfl⟩, ⟨rfl, by decide, setting⟩,
    ⟨by decide, setting⟩, ⟨by decide, setting⟩, ⟨setting, rfl⟩, ⟨rfl, setting⟩, setting, by decide, rfl⟩

theorem witness_HeadroomAndFallbackWritesRecompute : (∀ v ∈ [16384, 65535],
      let s := sending .a 0x01 (byteOf 0x01 ++ beBytes 4 v) (wall tile)
      16384 ≤ v ∧ v ≤ 65535 ∧ s.canonical ∧ s.clean ∧ s.takes .a 0x01 9 (byteOf 0x01 ++ beBytes 4 v) [] ∧
        (s.record 2047).inUse = true ∧ (s.record 0).inUse = false) ∧
    ∀ v ∈ [0, 32768],
      let s := sending .a 0x01 (byteOf 0x03 ++ beBytes 4 v) (wall { tile with state := .suspect })
      v ≤ 32768 ∧ s.canonical ∧ s.clean ∧ s.takes .a 0x01 9 (byteOf 0x03 ++ beBytes 4 v) [] ∧ (s.record 2047).inUse = true ∧
        (s.record 2047).state ≠ .live ∧ batchEntryOf s.batches (s.record 2047).batch = none := by
  refine ⟨fun v hv => ?_, fun v hv => ?_⟩
  · have : 16384 ≤ v ∧ v ≤ 65535 := by simp at hv; omega
    exact ⟨this.1, this.2, sending_canonical (wall_canonical (by decide)), rfl, sending_takes, rfl, rfl⟩
  · exact ⟨by simp at hv; omega, sending_canonical (wall_canonical (by decide)), rfl, sending_takes, rfl, nofun, rfl⟩

theorem witness_ZonesAreStoredAndReadBack :
    (3 ≤ 3 ∧ 65535 < 65536 ∧ (sending .a 0x03 (byteOf Port.b.code ++ byteOf 3 ++ u16 1535 ++ u16 65535) State.reset).takes .a 0x03 9
      (byteOf Port.b.code ++ byteOf 3 ++ u16 1535 ++ u16 65535) []) ∧
    (3 < 4 ∧ 4 < 256 ∧ (sending .a 0x03 (byteOf 1 ++ byteOf 4 ++ u16 0 ++ u16 0) State.reset).takes .a 0x03 9
      (byteOf 1 ++ byteOf 4 ++ u16 0 ++ u16 0) []) ∧
    (sending .b 0x04 (byteOf Port.a.code) State.reset).takes .b 0x04 9 (byteOf Port.a.code) [] ∧
    (1 < 2 ∧ (sending .b 0x04 (byteOf 2) State.reset).takes .b 0x04 9 (byteOf 2) []) :=
  ⟨⟨by decide, by decide, sending_takes⟩, ⟨by decide, by decide, sending_takes⟩, sending_takes, by decide, sending_takes⟩

/-- A record that hangs, a record the load has created, and a FREE slot. -/
theorem witness_WallResetStrikesTheWall :
    let s := sending .a 0x05 [] loadedWall
    s.canonical ∧ s.directory ∧ s.clean ∧ s.takes .a 0x05 9 [] [] ∧ s.load.inProgress = true ∧ s.load.owner = some .b ∧
      s.store.nu.attached .b = true ∧ (2046 ∈ s.load.list ∧ (s.record 2046).createdByLoad = true) ∧
      ((s.record 2047).inUse = true ∧ (s.record 2047).createdByLoad = false) ∧ (s.record 0).inUse = false :=
  ⟨sending_canonical loadedWall_canonical, sending_directory loadedWall_directory, rfl, sending_takes, rfl, rfl, rfl, ⟨by decide, rfl⟩,
    ⟨rfl, rfl⟩, rfl⟩

/-- The wall with its last seat UNRECORDED with identity 1. -/
def wallWithStranger : State := { wall tile with seats := [(1535, ⟨.unrecorded 1 0, .reported, .stale, 65535⟩)] }

theorem witness_CreateRecordCreatesOrIsRefused :
    let sent := fun (s : State) (x : Nat) => sending .b 0x10 (beBytes 6 x ++ u16 65535) s
    ((sent { wallWithStranger with freeQueue := [2046] } 1).canonical ∧ (sent { wallWithStranger with freeQueue := [2046] } 1).clean ∧
      (sent { wallWithStranger with freeQueue := [2046] } 1).takes .b 0x10 9 (beBytes 6 1 ++ u16 65535) [] ∧
      (sent { wallWithStranger with freeQueue := [2046] } 1).lookup 1 = none ∧
      unrecordedSeatOf (sent { wallWithStranger with freeQueue := [2046] } 1).seats 1 = some 1535) ∧
    (sent State.reset 0).takes .b 0x10 9 (beBytes 6 0 ++ u16 65535) [] ∧
    ((sent (wall tile) serial).takes .b 0x10 9 (beBytes 6 serial ++ u16 65535) [] ∧
      (sent (wall tile) serial).lookup serial = some ⟨2047, 65535⟩) ∧
    ((sent wallFull 1).takes .b 0x10 9 (beBytes 6 1 ++ u16 65535) [] ∧ (sent wallFull 1).lookup 1 = none ∧ (sent wallFull 1).freeQueue = [] ∧
      (sent wallFull 1).params.autoReclaim = false) :=
  ⟨⟨sending_canonical (by unfold State.canonical; decide +kernel), rfl, sending_takes, rfl, by decide⟩, sending_takes, ⟨sending_takes, rfl⟩, sending_takes, rfl, rfl, rfl⟩

/-- A table of consecutive keys reads as it was filled. -/
theorem get_range' {α : Type} {d : α} (f : Nat → α) (c k a n : Nat) :
    Table.get d ((List.range' a k).map fun i => (i + c, f i)) (n + c) = if a ≤ n ∧ n < a + k then f n else d := by
  induction k generalizing a with
  | zero => simp only [List.range'_zero, List.map_nil, Table.get]; rw [if_neg (by omega)]
  | succ k ih =>
    simp only [List.range'_succ, List.map_cons, Table.get, ih]
    by_cases h : a = n
    · subst h; simp
    · rw [if_neg (by omega)]; split <;> split <;> first | rfl | omega

/-- Such a table is canonical where no value is the default. -/
theorem wf_range' {α : Type} [DecidableEq α] {d : α} (f : Nat → α) (c k a : Nat) (h : ∀ n, f n ≠ d) :
    Table.wf d ((List.range' a k).map fun i => (i + c, f i)) := by
  refine ⟨List.pairwise_map.2 ((List.pairwise_lt_range' (s := a) (n := k)).imp fun h => Nat.add_lt_add_right h c), fun e he => ?_⟩
  obtain ⟨n, _, rfl⟩ := List.mem_map.1 he
  exact h n

theorem mem_keys_range' {α : Type} {f : Nat → α} {c k a n : Nat} (h : n ∈ Table.keys ((List.range' a k).map fun i => (i + c, f i))) :
    ∃ m, n = m + c ∧ m < a + k := by
  obtain ⟨e, he, rfl⟩ := List.mem_map.1 h
  obtain ⟨m, hm, rfl⟩ := List.mem_map.1 he
  exact ⟨m, rfl, (List.mem_range'_1.1 hm).2⟩

/-- The record of an identity in every slot, no slot free, and AUTO_RECLAIM as given. -/
def fullWall (r : Record) (reclaim : Bool) : State := { State.reset with
  store := { Store.reset true with records := (List.range' 0 2048).map fun n => (n + 0, { r with identity := n + 1 }) }
  index := (List.range' 0 2048).map fun n => (n + 1, some ⟨n, r.batch⟩)
  freeQueue := []
  params := { Params.default with autoReclaim := reclaim } }

theorem fullWall_record {r : Record} {b : Bool} {n : Nat} :
    (fullWall r b).record n = if n < 2048 then { r with identity := n + 1 } else Record.blank :=
  (get_range' (d := Record.blank) (fun n => { r with identity := n + 1 }) 0 2048 0 n).trans (if_congr (by omega) rfl rfl)

theorem fullWall_lookup {r : Record} {b : Bool} {n : Nat} :
    (fullWall r b).lookup (n + 1) = if n < 2048 then some ⟨n, r.batch⟩ else none :=
  (get_range' (d := none) (fun n => some (⟨n, r.batch⟩ : IndexEntry)) 1 2048 0 n).trans (if_congr (by omega) rfl rfl)

theorem fullWall_canonical {r : Record} {b : Bool} : (fullWall r b).canonical :=
  ⟨wf_range' (fun n => { r with identity := n + 1 }) 0 2048 0 fun n h => Nat.succ_ne_zero n (congrArg Record.identity h),
    wf_range' (fun n => some (⟨n, r.batch⟩ : IndexEntry)) 1 2048 0 fun _ => nofun,
    Table.wf_nil, Table.wf_nil, Table.wf_nil, Table.wf_nil, Table.wf_nil, Table.wf_nil⟩

/-- The directory of a wall that is full of ABSENT records, unheld or open in Port A's hands. -/
theorem fullWall_directory {r : Record} {b : Bool} (hu : r.inUse = true) (hs : r.seat = none) (hd : r.pendingDamaged = false)
    (hl : r.createdByLoad = false) (hh : r.hold = .none ∧ r.condition = .closed ∨ r.hold = .portA ∧ r.condition = .opened) :
    (fullWall r b).directory := by
  have hr : ∀ n, n < 2048 → (fullWall r b).record n = { r with identity := n + 1 } := fun n h => fullWall_record.trans (if_pos h)
  have hx : ∀ n, n < 2048 → (fullWall r b).lookup (n + 1) = some ⟨n, r.batch⟩ := fun n h => fullWall_lookup.trans (if_pos h)
  have hi : ∀ n, ({ r with identity := n + 1 } : Record).inUse = true := fun _ => hu
  refine State.directory_of_agrees ?_
  simp only [State.agrees, Bool.and_eq_true, beq_iff_eq, List.all_eq_true, decide_eq_true_eq, and_assoc]
  refine ⟨(List.filter_eq_nil_iff.2 fun n hn => ?_).symm, fun n hn => ?_, fun x hn => ?_, nofun, fun p _ => ?_, List.nodup_nil, .nil, nofun, nofun⟩
  · rw [hr n (List.mem_range.1 hn), hi]; decide
  · obtain ⟨m, e, hm⟩ := mem_keys_range' (c := 0) hn
    have hm : n < 2048 := by omega
    rw [hr n hm]
    simp only [State.recordAgrees, hs, hd, hl]
    rw [hx n hm]
    rcases hh with ⟨h1, h2⟩ | ⟨h1, h2⟩ <;> (simp [h1, h2, hm, Port.hold]; exact hu)
  · obtain ⟨m, rfl, hm⟩ := mem_keys_range' (c := 1) hn
    have hm : m < 2048 := by omega
    rw [hx m hm, Option.all_some, hr m hm, hi]; simp
  · cases p <;> exact ⟨List.nodup_nil, .nil, nofun, nofun⟩

/-- A state whose intake queue holds one report. -/
def reporting (r : Report) (s : State) : State := { s with trl := { s.trl with queue := [r] } }

/-- A wall full of eligible records of one age: an auto-reclaim retires the one in the lowest slot. -/
theorem fullWall_allocates : (fullWall tile true).allocates 0 [] (some 1) := by
  have hr : ∀ n, (fullWall tile true).record n = if n < 2048 then { tile with identity := n + 1 } else Record.blank := fun n => fullWall_record
  refine .inr ⟨rfl, rfl, rfl, ⟨?_, fun n h => .inr ⟨?_, n.zero_le⟩⟩, ?_⟩
  · simp only [State.mayReclaim, hr]; exact ⟨rfl, rfl, rfl, rfl, rfl⟩
  · simp only [hr]; split <;> rfl
  · rw [hr]; rfl

/-- Walls from which no slot is to be had: AUTO_RECLAIM off, and every record held. -/
theorem fullWall_allocatesNone : (fullWall tile false).allocatesNone ∧ (fullWall (heldBy .a .opened) true).allocatesNone := by
  refine ⟨⟨rfl, .inl rfl⟩, rfl, .inr fun n h => ?_⟩
  have hr : (fullWall (heldBy .a .opened) true).record n = if n < 2048 then { heldBy .a .opened with identity := n + 1 } else Record.blank :=
    fullWall_record
  have h1 := h.1
  have h3 := h.2.2.1
  rw [hr] at h1 h3
  split at h1
  · rename_i hn; rw [if_pos hn] at h3; cases h3
  · cases h1

theorem sending_allocates {p : Port} {code n : Nat} {payload : List Byte} {q : List Nat} {x : Option Nat} {s : State} (h : s.allocates n q x) :
    (sending p code payload s).allocates n q x := by cases p <;> exact h

theorem sending_allocatesNone {p : Port} {code : Nat} {payload : List Byte} {s : State} (h : s.allocatesNone) :
    (sending p code payload s).allocatesNone := by cases p <;> exact h

theorem reporting_allocates {r : Report} {n : Nat} {q : List Nat} {x : Option Nat} {s : State} (h : s.allocates n q x) :
    (reporting r s).allocates n q x := h

theorem reporting_allocatesNone {r : Report} {s : State} (h : s.allocatesNone) : (reporting r s).allocatesNone := h

theorem load_allocates {l : Load} {n : Nat} {q : List Nat} {x : Option Nat} {s : State} (h : s.allocates n q x) :
    ({ s with load := l } : State).allocates n q x := h

theorem load_allocatesNone {l : Load} {s : State} (h : s.allocatesNone) : ({ s with load := l } : State).allocatesNone := h

/-- A free slot, which is the last; with none free, an auto-reclaim of the record of identity 1; and no slot to be had. -/
theorem witness_CreateRecordAllocates :
    let payload := beBytes 6 serial ++ u16 65535
    let sent := fun (s : State) => sending .b 0x10 payload s
    (∀ x ∈ [(2046, none, wallOf [(2047, { tile with identity := 1 })]), (0, some 1, fullWall tile true)],
      let s := sent (if x.2.1 = none then { x.2.2 with freeQueue := [2046] } else x.2.2)
      s.canonical ∧ s.clean ∧ s.takes .b 0x10 9 payload [] ∧ s.lookup serial = none ∧ s.allocates x.1 [] x.2.1) ∧
    ∀ s ∈ [fullWall tile false, fullWall (heldBy .a .opened) true],
      (sent s).takes .b 0x10 9 payload [] ∧ (sent s).lookup serial = none ∧ (sent s).allocatesNone := by
  refine ⟨fun x hx => ?_, fun s hs => ?_⟩
  · simp only [List.mem_cons, List.not_mem_nil, or_false] at hx
    rcases hx with rfl | rfl
    · exact ⟨sending_canonical (by unfold State.canonical; decide +kernel), rfl, sending_takes, rfl, .inl ⟨rfl, rfl⟩⟩
    · exact ⟨sending_canonical fullWall_canonical, rfl, sending_takes, (fullWall_lookup (b := true) (n := serial - 1)).trans rfl,
        sending_allocates fullWall_allocates⟩
  · simp only [List.mem_cons, List.not_mem_nil, or_false] at hs
    rcases hs with rfl | rfl
    · exact ⟨sending_takes, (fullWall_lookup (b := false) (n := serial - 1)).trans rfl, sending_allocatesNone fullWall_allocatesNone.1⟩
    · exact ⟨sending_takes, (fullWall_lookup (b := true) (n := serial - 1)).trans rfl, sending_allocatesNone fullWall_allocatesNone.2⟩

theorem witness_RecordReadsAnswerTheFields :
    let s := fun (code : Nat) (payload : List Byte) => sending .b code payload (wall tile)
    ((s 0x11 (beBytes 6 serial)).clean ∧ 0 < serial ∧ serial < 2 ^ 48 ∧ (s 0x11 (beBytes 6 serial)).lookup serial = some ⟨2047, 65535⟩ ∧
      (s 0x11 (beBytes 6 serial)).takes .b 0x11 9 (beBytes 6 serial) []) ∧
    ((s 0x11 (beBytes 6 1)).lookup 1 = none ∧ (s 0x11 (beBytes 6 1)).takes .b 0x11 9 (beBytes 6 1) []) ∧
    (s 0x11 (beBytes 6 0)).takes .b 0x11 9 (beBytes 6 0) [] ∧
    ((s 0x12 (u16 2047)).clean ∧ ((s 0x12 (u16 2047)).record 2047).inUse = true ∧ (s 0x12 (u16 2047)).takes .b 0x12 9 (u16 2047) []) ∧
    ((s 0x15 (u16 2047)).clean ∧ ((s 0x15 (u16 2047)).record 2047).inUse = true ∧ (s 0x15 (u16 2047)).takes .b 0x15 9 (u16 2047) []) :=
  ⟨⟨rfl, by decide, by decide, rfl, sending_takes⟩, ⟨rfl, sending_takes⟩, sending_takes, ⟨rfl, rfl, sending_takes⟩, rfl, rfl, sending_takes⟩

/-- One flipped bit, or two, in a word of every kind: those of the active bank, BANK0, and of the pending bank, BANK1. -/
theorem witness_RecordReadsFindDamage : (∀ w ∈ [ArrayWord.identity, .state, .bank .bank0 .trims 0, .bank .bank1 .matrix 0, .drift .applied 0],
      ∀ bits ∈ [[0], [0, 71]],
      let s := sending .b 0x12 (u16 2047) (damaged [⟨2047, w, bits⟩] (wallOf [(2047, tile)]))
      s.canonical ∧ s.directory ∧ s.store.damage = [⟨2047, w, bits⟩] ∧ (s.record 2047).inUse = true ∧ s.takes .b 0x12 9 (u16 2047) [] ∧
        (s.record 2047).active = .bank0) ∧ BankIx.bank0.other = .bank1 := by
  have hc : (wallOf [(2047, tile)]).canonical := by unfold State.canonical; decide +kernel
  have hd : (wallOf [(2047, tile)]).directory := State.directory_of_agrees (by decide +kernel)
  exact ⟨fun w _ bits _ => ⟨sending_canonical (damaged_canonical hc), sending_directory (damaged_directory hd), rfl, rfl, sending_takes, rfl⟩,
    rfl⟩

theorem witness_SlotAndHoldRefusalsChangeNothing :
    let s := fun (slot : Nat) (r : Record) => sending .a 0x34 (u16 slot ++ [1, 2]) (wall r)
    ((s 2048 tile).takes .a 0x34 9 (u16 2048 ++ [1, 2]) [] ∧ 2047 < 2048 ∧ 2048 < 65536) ∧
    ((s 0 tile).takes .a 0x34 9 (u16 0 ++ [1, 2]) [] ∧ ((s 0 tile).record 0).inUse = false) ∧
    ((s 2047 tile).takes .a 0x34 9 (u16 2047 ++ [1, 2]) [] ∧ ((s 2047 tile).record 2047).inUse = true ∧
      ((s 2047 tile).record 2047).hold = .none) ∧
    ((s 2047 (heldBy .b .opened)).takes .a 0x34 9 (u16 2047 ++ [1, 2]) [] ∧ ((s 2047 (heldBy .b .opened)).record 2047).hold ≠ .none ∧
      ((s 2047 (heldBy .b .opened)).record 2047).hold ≠ Port.a.hold) :=
  ⟨⟨sending_takes, by decide, by decide⟩, ⟨sending_takes, rfl⟩, ⟨sending_takes, rfl, rfl⟩, sending_takes, by decide, by decide⟩

/-- The same at WRITE_BANK, with each group of a valid bank. -/
theorem witness_WriteBankChecksSlotAndHold : ∀ g ∈ [Group.matrix, .gains, .thermal, .aging, .trims],
    let more := byteOf (Group.code g) ++ groupBytes edgeBank g
    let s := fun (slot : Nat) (r : Record) => sending .a 0x31 (u16 slot ++ more) (wall r)
    (∀ slot r, (s slot r).takes .a 0x31 9 (u16 slot ++ more) []) ∧ edgeBank.valid = true ∧ ((s 0 tile).record 0).inUse = false ∧
      ((s 2047 tile).record 2047).inUse = true ∧ ((s 2047 tile).record 2047).hold = .none ∧
      ((s 2047 (heldBy .b .opened)).record 2047).hold ≠ .none ∧ ((s 2047 (heldBy .b .opened)).record 2047).hold ≠ Port.a.hold :=
  fun _ _ => ⟨fun _ _ => sending_takes, edgeBank_valid, rfl, rfl, rfl, by show Hold.portB ≠ .none; decide,
    by show Hold.portB ≠ .portA; decide⟩

/-- The first slot and the first field beyond their ranges: a scan from 2049 and one with no state, PLACE_SEAT of a seat, of a slot and of a FREE
slot, VACATE_SEAT of a seat, LOAD_BEGIN of a count. -/
theorem witness_FieldsBeyondTheirRangesAreRefused :
    let s := fun (code : Nat) (payload : List Byte) => sending .a code payload (wall tile)
    ((s 0x13 (u16 2049 ++ byteOf 1)).takes .a 0x13 9 (u16 2049 ++ byteOf 1) [] ∧ 2048 < 2049 ∧ 2049 < 65536) ∧
    ((s 0x13 (u16 2048 ++ byteOf 0)).takes .a 0x13 9 (u16 2048 ++ byteOf 0) [] ∧ 2048 ≤ 2048) ∧
    ((s 0x20 (u16 1536 ++ u16 2047)).takes .a 0x20 9 (u16 1536 ++ u16 2047) [] ∧ 1535 < 1536 ∧ 1536 < 65536) ∧
    ((s 0x20 (u16 1535 ++ u16 2048)).takes .a 0x20 9 (u16 1535 ++ u16 2048) [] ∧ 1535 ≤ 1535 ∧ 2047 < 2048) ∧
    ((s 0x20 (u16 1535 ++ u16 0)).takes .a 0x20 9 (u16 1535 ++ u16 0) [] ∧ ((s 0x20 (u16 1535 ++ u16 0)).record 0).inUse = false) ∧
    (s 0x21 (u16 1536)).takes .a 0x21 9 (u16 1536) [] ∧ (s 0x50 (u16 2048)).takes .a 0x50 9 (u16 2048) [] :=
  ⟨⟨sending_takes, by decide, by decide⟩, ⟨sending_takes, by decide⟩, ⟨sending_takes, by decide, by decide⟩, ⟨sending_takes, by decide, by decide⟩,
    ⟨sending_takes, rfl⟩, sending_takes, sending_takes⟩

theorem witness_ScanAnswersTheFirstSixteenMatches : ∀ first ∈ [0, 2048],
    (sending .b 0x13 (u16 first ++ byteOf 0xFF) (wall tile)).clean ∧ first ≤ 2048 ∧ 0xFF < 256 ∧ 0xFF % 16 ≠ 0 ∧
      (sending .b 0x13 (u16 first ++ byteOf 0xFF) (wall tile)).takes .b 0x13 9 (u16 first ++ byteOf 0xFF) [] := by
  intro first h
  exact ⟨rfl, by simp at h; omega, by decide, by decide, sending_takes⟩

theorem witness_RetireRecordFreesTheSlot :
    let s := fun (r : Record) => sending .a 0x14 (u16 2047) (wall r)
    ((s tile).canonical ∧ ((s tile).record 2047).inUse = true ∧ (s tile).takes .a 0x14 9 (u16 2047) [] ∧ ((s tile).record 2047).hold = .none ∧
      ((s tile).record 2047).seat = none) ∧
    ((s (heldBy .a .frozen)).canonical ∧ (s (heldBy .a .frozen)).takes .a 0x14 9 (u16 2047) [] ∧
      ((s (heldBy .a .frozen)).record 2047).hold ≠ .none) ∧
    ((s hung).canonical ∧ (s hung).takes .a 0x14 9 (u16 2047) [] ∧ ((s hung).record 2047).seat = some 1535) :=
  ⟨⟨sending_canonical (wall_canonical (by decide)), rfl, sending_takes, rfl, rfl⟩,
    ⟨sending_canonical held_canonical, sending_takes, by decide⟩, sending_canonical (wall_canonical (by decide)), sending_takes, rfl⟩

/-- A record that is not LIVE, of the wall's batch. -/
def suspectTile : Record := { tile with state := .suspect }

/-- The wall with the last batch entry filled. -/
def wallWithBatch (r : Record) : State := { wall r with batches := [(15, some ⟨65535, edgeBank⟩)] }

theorem wallWithBatch_canonical : (wallWithBatch suspectTile).canonical := by unfold State.canonical; decide +kernel

/-- All sixteen entries hold other batch codes: there is no entry left for one more. -/
theorem witness_SetBatchDefaultFindsNoEntry :
    let s := { wall suspectTile with batches := (List.range 16).map fun n => (n, some ⟨n, Bank.cleared⟩) }
    (sending .a 0x16 (u16 65535 ++ bankImage edgeBank) s).takes .a 0x16 9 (u16 65535 ++ bankImage edgeBank) [] ∧
      batchSlotFor (sending .a 0x16 (u16 65535 ++ bankImage edgeBank) s).batches 65535 = none :=
  ⟨sending_takes, by decide⟩

theorem witness_SetBatchDefaultFillsTheEntryAndRecomputes : ∀ s ∈ [wall suspectTile, wallWithBatch suspectTile],
    let t := sending .a 0x16 (u16 65535 ++ bankImage edgeBank) s
    t.canonical ∧ t.clean ∧ 65535 < 65536 ∧ edgeBank.valid = true ∧ t.takes .a 0x16 9 (u16 65535 ++ bankImage edgeBank) [] ∧
      (batchSlotFor t.batches 65535).isSome ∧ (t.record 2047).batch = 65535 ∧ (t.record 2047).state ≠ .live ∧ (t.record 2047).state ≠ .free := by
  intro s hs
  simp only [List.mem_cons, List.not_mem_nil, or_false] at hs
  rcases hs with rfl | rfl
  · exact ⟨sending_canonical (wall_canonical (by decide)), rfl, by decide, edgeBank_valid, sending_takes, by decide, rfl, by decide, by decide⟩
  · exact ⟨sending_canonical wallWithBatch_canonical, rfl, by decide, edgeBank_valid, sending_takes, by decide, rfl, by decide, by decide⟩

/-- The trim count stands at offset 38 of a bank's image. -/
theorem bankImage_count {b : Bank} (h : b.valid = true) : natAt (bankImage b) 38 1 = b.trims.length ∧ b.trims.length ≤ 4 := by
  simp only [Bank.valid, Bool.and_eq_true, decide_eq_true_eq] at h
  rw [bankImage, List.append_assoc, natAt_append_right (by simp [groupBytes, Prim.toList])]
  have := natAt_byteOf (n := b.trims.length) (by omega) (groupBytes b .trims)
  exact ⟨by simpa [groupBytes, Prim.toList] using this, by omega⟩

/-- Bytes that are no valid bank's image: a trim count one above the last. -/
theorem bad_image {b : Bank} (h : b.valid = true) : List.replicate 38 (0 : Byte) ++ [5] ≠ bankImage b := fun e => by
  have h5 : natAt (List.replicate 38 (0 : Byte) ++ [5]) 38 1 = 5 := by decide
  have := bankImage_count h
  rw [← e, h5] at this
  omega

theorem witness_SetBatchDefaultRefusesABadImage :
    let image := List.replicate 38 (0 : Byte) ++ [5]
    39 ≤ image.length ∧ (sending .a 0x16 (u16 65535 ++ image) (wall tile)).takes .a 0x16 9 (u16 65535 ++ image) [] ∧
      ∀ bank, Bank.valid bank = true → image ≠ bankImage bank :=
  ⟨by decide, sending_takes, fun _ => bad_image⟩

theorem witness_BatchEntriesAreClearedAndRead :
    let s := fun (code : Nat) (payload : List Byte) => sending .a code payload (wallWithBatch suspectTile)
    ((s 0x17 (u16 65535)).canonical ∧ (s 0x17 (u16 65535)).clean ∧ (s 0x17 (u16 65535)).takes .a 0x17 9 (u16 65535) [] ∧
      batchEntryOf (s 0x17 (u16 65535)).batches 65535 = some (15, ⟨65535, edgeBank⟩)) ∧
    ((s 0x17 (u16 0)).takes .a 0x17 9 (u16 0) [] ∧ batchEntryOf (s 0x17 (u16 0)).batches 0 = none) ∧
    (15 ≤ 15 ∧ (s 0x18 (byteOf 15)).takes .a 0x18 9 (byteOf 15) []) ∧ (15 < 16 ∧ (s 0x18 (byteOf 16)).takes .a 0x18 9 (byteOf 16) []) :=
  ⟨⟨sending_canonical wallWithBatch_canonical, rfl, sending_takes, rfl⟩, ⟨sending_takes, rfl⟩, ⟨by decide, sending_takes⟩, by decide, sending_takes⟩

/-! ### Seats and reports -/

theorem witness_PlaceSeatPlacesAnAbsentRecord :
    let s := fun (r : Record) (seat : Nat) => sending .a 0x20 (u16 seat ++ u16 2047) (wall r)
    ((s tile 1535).canonical ∧ (s tile 1535).clean ∧ ((s tile 1535).record 2047).inUse = true ∧
      (s tile 1535).takes .a 0x20 9 (u16 1535 ++ u16 2047) [] ∧ ((s tile 1535).record 2047).seat = none ∧
      ∀ k, ((s tile 1535).seat 1535).kind = .placed k → k ≠ 2047) ∧
    ((s hung 1535).canonical ∧ (s hung 1535).takes .a 0x20 9 (u16 1535 ++ u16 2047) [] ∧ ((s hung 1535).record 2047).seat = some 1535) ∧
    ((s hung 0).takes .a 0x20 9 (u16 0 ++ u16 2047) [] ∧ ((s hung 0).record 2047).seat = some 1535 ∧ 1535 ≠ 0) :=
  ⟨⟨sending_canonical (wall_canonical (by decide)), rfl, rfl, sending_takes, rfl, nofun⟩,
    ⟨sending_canonical (wall_canonical (by decide)), sending_takes, rfl⟩, sending_takes, rfl, by decide⟩

/-- A report of a kind from the last seat, for a record's identity. -/
def reportOfKind (k : ReportKind) (hours : Nat) : Report := ⟨15, 95, 0, k, serial, 65535, hours, 0, false⟩

theorem reporting_canonical {r : Report} {s : State} (h : s.canonical) : (reporting r s).canonical := by
  obtain ⟨h1, h2, h3, h4, h5⟩ := h
  exact ⟨h1, h2, h3, h4, h5⟩

theorem witness_VacateSeatAndLostEmptyTheSeat :
    (let s := sending .b 0x21 (u16 1535) (wall hung);
      s.canonical ∧ s.clean ∧ 1535 ≤ 1535 ∧ s.takes .b 0x21 9 (u16 1535) [] ∧ (s.seat 1535).kind = .placed 2047) ∧
    let s := reporting (reportOfKind .lost 0) (wall hung)
    s.canonical ∧ s.clean ∧ s.trl.queue = [reportOfKind .lost 0] ∧ (reportOfKind .lost 0).kind = .lost ∧ (reportOfKind .lost 0).gap = false :=
  ⟨⟨sending_canonical (wall_canonical (by decide)), rfl, by decide, sending_takes, rfl⟩, reporting_canonical (wall_canonical (by decide)), rfl,
    rfl, rfl, rfl⟩

/-- A LOST taken with a gap mark, and another seat of its distribution port. -/
theorem witness_LostWithAGap :
    let r := { reportOfKind .lost 0 with gap := true }
    let s := reporting r { wall hung with seats := [(1534, ⟨.unrecorded 1 0, .reported, .fresh, 0⟩), (1535, ⟨.placed 2047, .reported, .fresh, 0⟩)] }
    s.canonical ∧ s.clean ∧ s.trl.queue = [r] ∧ r.kind = .lost ∧ r.gap = true ∧ (s.seat 1535).kind = .placed 2047 ∧ 1534 / 96 = r.distPort ∧
      (s.seat 1534).origin = .reported :=
  ⟨by unfold State.canonical; decide +kernel, rfl, rfl, rfl, rfl, rfl, rfl, rfl⟩

/-- Sixty-three reports wait, and one more has room; with sixty-four it has none. -/
def queued (n : Nat) : State := { State.reset with trl := ⟨List.replicate n (reportOfKind .announce 0), [], .between 16⟩ }

theorem reset_canonical : State.reset.canonical := by unfold State.canonical; decide

/-- Readings beyond the clamped range and hours at both sides of it; a frame that is too short; and a full queue. -/
theorem witness_ReportsJoinOrAreCounted :
    ((queued 63).canonical ∧ (queued 63).trl.line = .between 16 ∧ (queued 63).trl.queue.length < 64 ∧
      (∀ reading ∈ [-32768, -81, 201, 32767], ∀ hours ∈ [262143, 262144, 16777215],
        (reportOfKind (.status (some reading)) hours).carried = true) ∧
      (reportOfKind .announce 0).carried = true ∧ (⟨0, 0, 0, .lost, 0, 0, 0, 0, false⟩ : Report).carried = true) ∧
    ((Line.between 16).run (frameSamples [1, 2, 4, 3, 0, 0]) = ([([1, 2, 4, 3, 0, 0], true)], .between 16) ∧
      some [(1 : Byte), 2, 4, 3, 0, 0].length ≠ frameLength (natAt [1, 2, 4, 3, 0, 0] 2 1)) ∧
    (queued 64).trl.line = .between 16 ∧ 64 ≤ (queued 64).trl.queue.length ∧ (reportOfKind (.status none) 0).carried = true := by
  obtain ⟨h1, h2, h3, h4, h5⟩ := reset_canonical
  exact ⟨⟨⟨h1, h2, h3, h4, h5⟩, rfl, by simp [queued], by decide, by decide, by decide⟩, by decide +kernel, rfl, by simp [queued], by decide⟩

theorem witness_AnnouncePlacesAnAbsentRecord : ∀ hours ∈ [0, 262143],
    let s := reporting (reportOfKind .announce hours) (wall tile)
    s.canonical ∧ s.clean ∧ s.trl.queue = [reportOfKind .announce hours] ∧ s.lookup serial = some ⟨2047, 65535⟩ ∧
      (s.record 2047).inUse = true ∧ (s.record 2047).seat = none ∧ (s.seat 1535).kind = .vacant :=
  fun _ _ => ⟨reporting_canonical (wall_canonical (by decide)), rfl, rfl, rfl, rfl, rfl, rfl⟩

/-- Two records at neighbouring seats, of identities 1 and the greatest. -/
def neighbours : State := wallOf [(2046, { tile with identity := 1, seat := some 1534 }), (2047, hung)]

theorem neighbours_canonical : neighbours.canonical := by unfold State.canonical; decide +kernel

theorem reporting_directory {r : Report} {s : State} (h : s.directory) : (reporting r s).directory := by
  obtain ⟨h1, h2, h3, h4⟩ := h
  exact ⟨h1, h2, h3, h4⟩

theorem neighbours_directory : neighbours.directory := State.directory_of_agrees (by decide +kernel)

/-- An ANNOUNCE at the last seat. -/
def announced (identity : Nat) (gap : Bool) : Report := { reportOfKind .announce 12001 with identity := identity, gap := gap }

/-- A record moves from a seat that the gap makes UNCONFIRMED and displaces another; and an identity without a record gets one. -/
theorem witness_AnnounceMovesDisplacesAndCreates :
    (let s := reporting (announced 1 true) neighbours;
      s.canonical ∧ s.directory ∧ s.clean ∧ s.lookup 1 = some ⟨2046, 65535⟩ ∧ (s.record 2046).seat = some 1534 ∧ 1534 ≠ 1535 ∧ 1534 / 96 = 15 ∧
        (s.seat 1534).kind ≠ .vacant ∧ (s.seat 1534).origin = .reported ∧ (s.seat 1535).kind = .placed 2047) ∧
    (let s := reporting (announced serial false) neighbours;
      s.canonical ∧ s.directory ∧ s.lookup serial = some ⟨2047, 65535⟩ ∧ (s.record 2047).seat = some 1535) ∧
    let s := reporting (announced 2 false) neighbours
    s.canonical ∧ s.directory ∧ s.clean ∧ s.lookup 2 = none ∧ s.params.autoCreate = true ∧ s.freeQueue.head? = some 0 :=
  ⟨⟨reporting_canonical neighbours_canonical, reporting_directory neighbours_directory, rfl, rfl, rfl, by decide, rfl, by decide, rfl, rfl⟩,
    ⟨reporting_canonical neighbours_canonical, reporting_directory neighbours_directory, rfl, rfl⟩,
    reporting_canonical neighbours_canonical, reporting_directory neighbours_directory, rfl, rfl, rfl, by decide +kernel⟩

/-- An arrival of an identity without a record, by ANNOUNCE and by STATUS, where no slot is free: an auto-reclaim retires the record of identity 1;
and no record is eligible. -/
theorem witness_ArrivalsWithoutAFreeSlot : ∀ k ∈ [ReportKind.announce, .status none, .status (some 200)],
    let r := reportOfKind k 262143
    (let s := reporting r (fullWall tile true);
      s.canonical ∧ s.directory ∧ s.clean ∧ s.trl.queue = [r] ∧ r.kind = k ∧ (∀ n, (s.seat 1535).kind ≠ .placed n) ∧ s.lookup serial = none ∧
        s.params.autoCreate = true ∧ s.allocates 0 [] (some 1)) ∧
    let s := reporting r (fullWall (heldBy .a .opened) true)
    s.canonical ∧ s.directory ∧ s.clean ∧ (∀ n, (s.seat 1535).kind ≠ .placed n) ∧ s.lookup serial = none ∧ s.allocatesNone :=
  fun _ _ => ⟨⟨reporting_canonical fullWall_canonical, reporting_directory (fullWall_directory rfl rfl rfl rfl (.inl ⟨rfl, rfl⟩)), rfl, rfl, rfl,
      nofun, (fullWall_lookup (b := true) (n := serial - 1)).trans rfl, rfl, reporting_allocates fullWall_allocates⟩,
    reporting_canonical fullWall_canonical, reporting_directory (fullWall_directory rfl rfl rfl rfl (.inr ⟨rfl, rfl⟩)), rfl, nofun,
    (fullWall_lookup (b := true) (n := serial - 1)).trans rfl, reporting_allocatesNone fullWall_allocatesNone.2⟩

/-- The same tile placed at seat 0, which has reported. -/
def elsewhere : Record := { tile with seat := some 0 }

theorem params_keep {q : Params} {s : State} (h : s.canonical ∧ s.directory) :
    ({ s with params := q } : State).canonical ∧ ({ s with params := q } : State).directory := h

theorem params_queue {q : Params} {r : Report} {s : State} : (reporting r { s with params := q }).freeQueue = s.freeQueue := rfl

/-- A STATUS with a temperature at the last seat. -/
def stated (identity : Nat) (gap : Bool) : Report := { reportOfKind (.status (some 91)) 12001 with identity := identity, gap := gap }

/-- A STATUS that is an arrival: of a record elsewhere at a seat another holds, with a gap and without; of an ABSENT record at a seat that is
UNRECORDED with its identity; and of an identity without a record, with AUTO_CREATE on and off. -/
theorem witness_StatusArrives :
    (∀ gap, let s := reporting (stated 1 gap) neighbours
      s.canonical ∧ s.directory ∧ s.clean ∧ (stated 1 gap).kind = .status (some 91) ∧ (s.seat 1535).kind = .placed 2047 ∧
        (s.record 2047).identity ≠ 1 ∧ s.lookup 1 = some ⟨2046, 65535⟩ ∧ (s.record 2046).seat = some 1534 ∧ 1534 / 96 = (stated 1 gap).distPort ∧
        (s.seat 1534).fresh = .fresh ∧ (s.seat 1534).origin = .reported) ∧
    (let s := reporting (stated serial false) { wall tile with seats := [(1535, ⟨.unrecorded serial 0, .reported, .fresh, 9⟩)] };
      s.canonical ∧ s.directory ∧ s.clean ∧ (∀ n, (s.seat 1535).kind ≠ .placed n) ∧ s.lookup serial = some ⟨2047, 65535⟩ ∧
        (s.record 2047).seat = none) ∧
    ∀ create, let s := reporting (stated 2 false) { neighbours with params := { Params.default with autoCreate := create, driftGap := 1 } }
      s.canonical ∧ s.directory ∧ s.clean ∧ s.lookup 2 = none ∧ s.params.autoCreate = create ∧ s.freeQueue.head? = some 0 ∧
        (s.seat 1535).kind = .placed 2047 ∧ (s.record 2047).identity ≠ 2 :=
  ⟨fun _ => ⟨reporting_canonical neighbours_canonical, reporting_directory neighbours_directory, rfl, rfl, rfl, (by decide : serial ≠ 1), rfl,
      rfl, rfl, rfl, rfl⟩,
    ⟨by unfold State.canonical; decide +kernel, State.directory_of_agrees (by decide +kernel), rfl, nofun, rfl, rfl⟩, fun c => by
    obtain ⟨h1, h2⟩ := params_keep (q := { Params.default with autoCreate := c, driftGap := 1 }) ⟨neighbours_canonical, neighbours_directory⟩
    exact ⟨reporting_canonical h1, reporting_directory h2, rfl, rfl, rfl, (congrArg List.head? params_queue).trans (by decide +kernel), rfl,
      (by decide : serial ≠ 2)⟩⟩

/-- A STATUS from the occupant of the last seat that is taken with a gap mark, with another REPORTED seat of its distribution port. -/
theorem witness_StatusWithAGap :
    let s := reporting (stated serial true) neighbours
    s.canonical ∧ s.clean ∧ (stated serial true).gap = true ∧ (s.seat 1535).kind = .placed 2047 ∧ (s.record 2047).identity = serial ∧
      (s.record 2047).inUse = true ∧ (s.record 2047).theta = some 90 ∧ 1534 / 96 = (stated serial true).distPort ∧ (s.seat 1534).kind ≠ .vacant ∧
      (s.seat 1534).origin = .reported :=
  ⟨reporting_canonical neighbours_canonical, rfl, rfl, rfl, rfl, rfl, rfl, rfl, by decide, rfl⟩

theorem witness_IdentityClashKeepsTheFreshSeat :
    let s := reporting (reportOfKind .announce 0) (wall elsewhere)
    s.canonical ∧ s.trl.queue = [reportOfKind .announce 0] ∧ s.lookup serial = some ⟨2047, 65535⟩ ∧ (s.record 2047).seat = some 0 ∧
      0 ≠ 15 * 96 + 95 ∧ (s.seat 0).fresh = .fresh ∧ (s.seat 0).origin = .reported ∧ (s.seat 1535).kind = .vacant :=
  ⟨reporting_canonical (wall_canonical (by decide)), rfl, rfl, rfl, by decide, rfl, rfl, rfl⟩

/-- Each clause about the distance of the reading, 0, below 4 and from 4 on, either way. -/
theorem witness_StatusConfirmsTheSeatAndFeedsTheFilter : ∀ reading ∈ [-80, 86, 87, 89, 90, 91, 93, 94, 200],
    let r := reportOfKind (.status (some reading)) 12001
    let s := reporting r (wall hung)
    s.canonical ∧ s.clean ∧ s.trl.queue = [r] ∧ r.gap = false ∧ (s.seat 1535).kind = .placed 2047 ∧ (s.record 2047).identity = r.identity ∧
      (s.record 2047).inUse = true ∧ (s.record 2047).theta = some 90 :=
  fun _ _ => ⟨reporting_canonical (wall_canonical (by decide)), rfl, rfl, rfl, rfl, rfl, rfl, rfl⟩

/-- A clash at a seat that another record holds, and at one UNRECORDED with the identity; arrivals of an identity that gets no record. -/
theorem witness_ClashesAndUnrecordedArrivals :
    (let s := reporting (announced 1 false) neighbours;
      s.canonical ∧ s.directory ∧ s.clean ∧ s.lookup 1 = some ⟨2046, 65535⟩ ∧ (s.record 2046).seat = some 1534 ∧ 1534 ≠ 1535 ∧
        (s.seat 1534).fresh = .fresh ∧ (s.seat 1534).origin = .reported ∧ (s.seat 1535).kind = .placed 2047) ∧
    (let s := reporting (announced serial false) { wall elsewhere with
        seats := [(0, ⟨.placed 2047, .reported, .fresh, 0⟩), (1535, ⟨.unrecorded serial 0, .reported, .stale, 9⟩)] };
      s.canonical ∧ s.directory ∧ s.clean ∧ s.lookup serial = some ⟨2047, 65535⟩ ∧ (s.record 2047).seat = some 0 ∧
        (s.seat 0).fresh = .fresh ∧ (s.seat 0).origin = .reported ∧ (s.seat 1535).kind = .unrecorded serial 0) ∧
    (let s := reporting (announced 2 false) { neighbours with params := { Params.default with autoCreate := false } };
      s.canonical ∧ s.directory ∧ s.clean ∧ s.lookup 2 = none ∧ s.params.autoCreate = false) ∧
    let s := reporting (announced serial false) (fullWall tile false)
    s.canonical ∧ s.directory ∧ s.clean ∧ s.lookup serial = none ∧ s.freeQueue = [] ∧ s.params.autoReclaim = false := by
  obtain ⟨h1, h2⟩ := params_keep (q := { Params.default with autoCreate := false }) ⟨neighbours_canonical, neighbours_directory⟩
  exact ⟨⟨reporting_canonical neighbours_canonical, reporting_directory neighbours_directory, rfl, rfl, rfl, by decide, rfl, rfl, rfl⟩,
    ⟨by unfold State.canonical; decide +kernel, State.directory_of_agrees (by decide +kernel), rfl, rfl, rfl, rfl, rfl, rfl⟩,
    ⟨reporting_canonical h1, reporting_directory h2, rfl, rfl, rfl⟩,
    reporting_canonical fullWall_canonical, reporting_directory (fullWall_directory rfl rfl rfl rfl (.inl ⟨rfl, rfl⟩)), rfl,
    (fullWall_lookup (b := false) (n := serial - 1)).trans rfl, rfl, rfl⟩

/-- A STATUS without a temperature, and one onto a filter that is INVALID. -/
theorem witness_StatusWithoutAFilteredReading : ∀ x ∈ [(none, some 90), (some (-80), none), (some 200, (none : Option Int))],
    let r := reportOfKind (.status x.1) 12001
    let s := reporting r (wall { hung with theta := x.2 })
    s.canonical ∧ s.clean ∧ s.trl.queue = [r] ∧ r.gap = false ∧ (s.seat 1535).kind = .placed 2047 ∧ (s.record 2047).identity = r.identity ∧
      (s.record 2047).inUse = true ∧ (x.1 = none ∨ (s.record 2047).theta = none) := by
  intro x hx
  refine ⟨reporting_canonical (wall_canonical (by cases x.2 <;> simp [hung, tile, Record.blank])), rfl, rfl, rfl, rfl, rfl, rfl, ?_⟩
  simp only [List.mem_cons, List.not_mem_nil, or_false] at hx
  rcases hx with rfl | rfl | rfl
  · exact .inl rfl
  · exact .inr rfl
  · exact .inr rfl

/-- A boundary has aged the seat of the wall's record, and the check is due. -/
def agedWall (since : Nat) : State := { wall hung with seatCheckDue := true, seats := [(1535, ⟨.placed 2047, .reported, .fresh, since⟩)] }

theorem witness_DueSeatsTurnStale :
    ((agedWall 600).canonical ∧ (agedWall 600).seatCheckDue = true ∧ (agedWall 600).params.statusTimeout ≤ ((agedWall 600).seat 1535).since) ∧
    (agedWall 599).canonical ∧ (agedWall 599).seatCheckDue = true ∧ ¬ (agedWall 599).params.statusTimeout ≤ ((agedWall 599).seat 1535).since :=
  ⟨⟨by unfold State.canonical; decide +kernel, rfl, by decide⟩, by unfold State.canonical; decide +kernel, rfl, by decide⟩

/-! ### Edits and commits -/

theorem witness_OpenEditFillsThePendingBankOrIsRefused :
    let s := fun (p : Port) (r : Record) => sending p 0x30 (u16 2047) (wall r)
    (∀ r ∈ [tile, suspectTile, { tile with state := .new }], (s .a r).clean ∧ ((s .a r).record 2047).inUse = true ∧
      (s .a r).takes .a 0x30 9 (u16 2047) [] ∧ ((s .a r).record 2047).hold = .none ∧ (s .a r).zonePass .a ((s .a r).record 2047).seat = true ∧
      (s .a r).canonical) ∧
    ((s .a (heldBy .a .scheduled)).takes .a 0x30 9 (u16 2047) [] ∧ ((s .a (heldBy .a .scheduled)).record 2047).hold ≠ .none) ∧
    ((s .b hung).takes .b 0x30 9 (u16 2047) [] ∧ ((s .b hung).record 2047).seat = some 1535 ∧
      (s .b hung).outsideZones .b 1535) := by
  refine ⟨fun r hr => ?_, ⟨sending_takes, by decide⟩, sending_takes, rfl, by unfold State.outsideZones; decide⟩
  simp only [List.mem_cons, List.not_mem_nil, or_false] at hr
  rcases hr with rfl | rfl | rfl <;>
    exact ⟨rfl, rfl, sending_takes, rfl, rfl, sending_canonical (wall_canonical (by decide))⟩

theorem witness_WriteBankReplacesOneGroup : ∀ g ∈ [Group.matrix, .gains, .thermal, .aging, .trims],
    let s := sending .b 0x31 (u16 2047 ++ byteOf (Group.code g) ++ groupBytes edgeBank g) (wall (heldBy .b .opened))
    s.canonical ∧ s.clean ∧ edgeBank.valid = true ∧
      s.takes .b 0x31 9 (u16 2047 ++ byteOf (Group.code g) ++ groupBytes edgeBank g) [] ∧ (s.record 2047).inUse = true ∧
      (s.record 2047).hold = Port.b.hold ∧ (s.record 2047).condition = .opened ∧ s.zonePass .b (s.record 2047).seat = true :=
  fun _ _ => ⟨sending_canonical held_canonical, rfl, edgeBank_valid, sending_takes, rfl, rfl, rfl, rfl⟩

/-- A slot and a group one above the last; θref at both ends beyond its range; and lists of values with a byte too few. -/
theorem witness_WriteBankRefusesBadValues :
    let sent := fun (n group : Nat) (values : List Byte) => sending .b 0x31 (u16 n ++ byteOf group ++ values) (wall (heldBy .b .opened))
    (∀ n group values, (sent n group values).takes .b 0x31 9 (u16 n ++ byteOf group ++ values) []) ∧
    (2047 < 2048 ∧ 2048 < 65536 ∧ 4 < 5 ∧ 5 < 256 ∧ 255 < 256) ∧
    (∀ θ ∈ [-81, 201], ∀ bank, Bank.valid bank = true → beInt 2 θ ++ List.replicate 6 0 ≠ groupBytes bank .thermal) ∧
    (∀ bank, List.replicate 17 (0 : Byte) ≠ groupBytes bank .matrix ∧ List.replicate 5 (0 : Byte) ≠ groupBytes bank .gains ∧
      List.replicate 5 (0 : Byte) ≠ groupBytes bank .aging ∧ List.replicate 7 (0 : Byte) ≠ groupBytes bank .thermal) ∧
    ∀ bank, Bank.valid bank = true → [(4 : Byte), 1, 1, 0] ≠ groupBytes bank .trims := by
  refine ⟨fun _ _ _ => sending_takes, by decide, fun θ h b hb e => ?_, fun b => ⟨fun e => ?_, fun e => ?_, fun e => ?_, fun e => ?_⟩, fun b _ e => ?_⟩
  · have e := congrArg (fun l => beSigned (l.take 2)) e
    simp only [groupBytes, List.take_left' (beInt_length 2 _)] at e
    simp only [Bank.valid, Bool.and_eq_true, thetaOut, Bool.not_eq_true', decide_eq_false_iff_not] at hb
    rw [beSigned_beInt (by simp at h; omega), beSigned_beInt (by omega)] at e
    simp at h; omega
  · simpa [groupBytes, Prim.toList] using congrArg List.length e
  · simpa [groupBytes, Prim.toList] using congrArg List.length e
  · simpa [groupBytes, Prim.toList] using congrArg List.length e
  · simpa [groupBytes, Prim.toList] using congrArg List.length e
  · cases ht : b.trims with
    | nil => simp [groupBytes, ht] at e
    | cons a l => cases ha : a.edge <;> simp [groupBytes, ht, trimBytes, byteOf, ha, Edge.code] at e

theorem witness_FrozenAndScheduledBanksCannotBeWritten : ∀ c ∈ [Condition.frozen, .scheduled],
    ∀ x ∈ [(0x34, [1, 2]), (0x31, byteOf (Group.code .trims) ++ groupBytes edgeBank .trims), (0x33, []), (0x36, []),
      (0x35, [1, 2])],
    let s := sending .a x.1 (u16 2047 ++ x.2) (wall (heldBy .a c))
    (s.record 2047).inUse = true ∧ (s.record 2047).hold = Port.a.hold ∧ s.takes .a x.1 9 (u16 2047 ++ x.2) [] ∧
      (s.record 2047).condition = c ∧ 2047 ∉ (s.port .a).commitList :=
  fun _ _ _ _ => ⟨rfl, rfl, sending_takes, rfl, by simp [sending, State.onPort, State.port, wall, State.reset, PortState.reset]⟩

/-- The three commands at an OPEN record at the last seat, just above the one zone of Port B. -/
theorem witness_ZoneChecksOfAnEdit :
    ∀ x ∈ [(0x34, [1, 2]), (0x31, byteOf (Group.code .aging) ++ groupBytes edgeBank .aging), (0x35, [1, 2])],
    let w := wall { heldBy .b .opened with seat := some 1535 }
    let s := sending .b x.1 (u16 2047 ++ x.2) { w with portB := { w.portB with zones := ⟨⟨0, 1534⟩, Zone.void, Zone.void, Zone.void⟩ } }
    (s.record 2047).inUse = true ∧ (s.record 2047).hold = Port.b.hold ∧ s.takes .b x.1 9 (u16 2047 ++ x.2) [] ∧
      (s.record 2047).condition = .opened ∧ (s.record 2047).seat = some 1535 ∧ s.outsideZones .b 1535 ∧ 2047 ∉ (s.port .b).commitList :=
  fun _ _ => ⟨rfl, rfl, sending_takes, rfl, rfl, by
    simp [State.outsideZones, State.port, sending, State.onPort, Zone.void], by
    simp [sending, State.onPort, State.port, wall, State.reset, PortState.reset]⟩

/-- The wall's record frozen and listed by Port A, with Port A's list. -/
def listed : State := { wall (heldBy .a .frozen) with portA := { (wall tile).portA with commitList := [2047], expiry := some ⟨1, 1, 0⟩ } }

theorem listed_canonical : listed.canonical := by
  obtain ⟨h1, h2, h3, h4, h5⟩ := held_canonical (p := .a) (c := .frozen)
  exact ⟨h1, h2, h3, h4, h5⟩

theorem witness_PendingBankAndOutcomeAreRead :
    ((sending .a 0x32 (u16 2047) listed).clean ∧ ((sending .a 0x32 (u16 2047) listed).record 2047).inUse = true ∧
      (sending .a 0x32 (u16 2047) listed).takes .a 0x32 9 (u16 2047) [] ∧
      ((sending .a 0x32 (u16 2047) listed).record 2047).hold = Port.a.hold) ∧
    ((sending .a 0x39 [] listed).takes .a 0x39 9 [] [] ∧ ((sending .a 0x39 [] listed).port .a).expiry = some ⟨1, 1, 0⟩) ∧
    (sending .b 0x39 [] listed).takes .b 0x39 9 [] [] ∧ ((sending .b 0x39 [] listed).port .b).expiry = none :=
  ⟨⟨rfl, rfl, sending_takes, rfl⟩, ⟨sending_takes, rfl⟩, sending_takes, rfl⟩

theorem witness_ReleaseEditEndsEveryClaim :
    let s := sending .a 0x33 (u16 2047) listed
    s.canonical ∧ (s.record 2047).inUse = true ∧ s.takes .a 0x33 9 (u16 2047) [] ∧ (s.record 2047).hold = Port.a.hold ∧
      (s.record 2047).condition ≠ .scheduled :=
  ⟨sending_canonical listed_canonical, rfl, sending_takes, rfl, by decide⟩

theorem witness_CommitRecordSchedulesOnAMatchingCrc :
    let s := fun (crc : Half) => sending .a 0x34 (u16 2047 ++ halfBytes crc) (wall (heldBy .a .opened))
    (∀ crc, (s crc).canonical ∧ (s crc).clean ∧ ((s crc).record 2047).inUse = true ∧ (s crc).takes .a 0x34 9 (u16 2047 ++ halfBytes crc) [] ∧
      ((s crc).record 2047).hold = Port.a.hold ∧ ((s crc).record 2047).condition = .opened ∧
      (s crc).zonePass .a ((s crc).record 2047).seat = true ∧ ((s crc).record 2047).pendingDamaged = false) ∧
    (∃ crc, bankCrc ((s crc).record 2047).pendingBank = crc) ∧ ∃ crc, bankCrc ((s crc).record 2047).pendingBank ≠ crc :=
  ⟨fun _ => ⟨sending_canonical held_canonical, rfl, rfl, sending_takes, rfl, rfl, rfl, rfl⟩, ⟨bankCrc Bank.cleared, rfl⟩,
    0, by decide +kernel⟩

/-- One flipped bit, or two, in the pending bank, with its CRC. -/
theorem witness_CommitRecordFindsDamage : ∀ bits ∈ [[0], [0, 71]],
    let crc := bankCrc Bank.cleared
    let s := sending .a 0x34 (u16 2047 ++ halfBytes crc) (damaged [⟨2047, .bank .bank1 .aging 0, bits⟩] (wall (heldBy .a .opened)))
    s.canonical ∧ s.store.damage = [⟨2047, .bank (s.record 2047).active.other .aging 0, bits⟩] ∧ (s.record 2047).inUse = true ∧
      s.takes .a 0x34 9 (u16 2047 ++ halfBytes crc) [] ∧ (s.record 2047).hold = Port.a.hold ∧ (s.record 2047).condition = .opened ∧
      s.zonePass .a (s.record 2047).seat = true ∧ (s.record 2047).pendingDamaged = false ∧ bankCrc (s.record 2047).pendingBank = crc :=
  fun _ _ => ⟨sending_canonical held_canonical, rfl, rfl, sending_takes, rfl, rfl, rfl, rfl, rfl⟩

theorem witness_GroupAddAndRemoveKeepTheCommitList :
    let again := sending .a 0x35 (u16 2047 ++ halfBytes 0) listed
    let add := sending .a 0x35 (u16 2047 ++ halfBytes (bankCrc Bank.cleared)) (wall (heldBy .a .opened))
    let full := sending .a 0x35 (u16 2047 ++ halfBytes 0)
      { wall (heldBy .a .opened) with portA := { (wall tile).portA with commitList := List.range 64 } }
    let remove := fun (s : State) => sending .a 0x36 (u16 2047) s
    (again.canonical ∧ again.clean ∧ again.takes .a 0x35 9 (u16 2047 ++ halfBytes 0) [] ∧ (again.record 2047).hold = Port.a.hold ∧
      positionOf 2047 (again.port .a).commitList = some 0) ∧
    (add.canonical ∧ add.takes .a 0x35 9 (u16 2047 ++ halfBytes (bankCrc Bank.cleared)) [] ∧ 2047 ∉ (add.port .a).commitList ∧
      (add.record 2047).condition = .opened ∧ add.zonePass .a (add.record 2047).seat = true ∧ (add.port .a).commitList.length < 64 ∧
      (add.record 2047).pendingDamaged = false ∧ bankCrc (add.record 2047).pendingBank = bankCrc Bank.cleared) ∧
    (full.takes .a 0x35 9 (u16 2047 ++ halfBytes 0) [] ∧ 2047 ∉ (full.port .a).commitList ∧ 64 ≤ (full.port .a).commitList.length) ∧
    ((remove listed).canonical ∧ (remove listed).takes .a 0x36 9 (u16 2047) [] ∧ ((remove listed).record 2047).condition ≠ .scheduled ∧
      2047 ∈ ((remove listed).port .a).commitList) ∧
    ((remove (wall (heldBy .a .opened))).takes .a 0x36 9 (u16 2047) [] ∧ 2047 ∉ ((remove (wall (heldBy .a .opened))).port .a).commitList) :=
  ⟨⟨sending_canonical listed_canonical, rfl, sending_takes, rfl, rfl⟩,
    ⟨sending_canonical held_canonical, sending_takes, by decide, rfl, rfl, by decide, rfl, rfl⟩,
    ⟨sending_takes, by decide, by decide⟩, ⟨sending_canonical listed_canonical, sending_takes, by decide, by decide⟩, sending_takes, by decide⟩

/-- A GROUP_ADD of a damaged bank with its CRC, and of one that is not with another CRC. -/
theorem witness_GroupAddChecksTheCrc : ∀ x ∈ [(true, bankCrc Bank.cleared), (false, bankCrc Bank.cleared + 1)],
    let s := sending .a 0x35 (u16 2047 ++ halfBytes x.2) (wall { heldBy .a .opened with pendingDamaged := x.1 })
    s.canonical ∧ s.clean ∧ (s.record 2047).inUse = true ∧ (s.record 2047).hold = Port.a.hold ∧
      s.takes .a 0x35 9 (u16 2047 ++ halfBytes x.2) [] ∧ 2047 ∉ (s.port .a).commitList ∧ (s.record 2047).condition = .opened ∧
      s.zonePass .a (s.record 2047).seat = true ∧ (s.port .a).commitList.length < 64 ∧
      ((s.record 2047).pendingDamaged = true ∨ bankCrc (s.record 2047).pendingBank ≠ x.2) := by
  intro x hx
  refine ⟨sending_canonical (wall_canonical (by simp [heldBy, tile, Record.blank])), rfl, rfl, rfl, sending_takes,
    (by decide : 2047 ∉ []), rfl, rfl, (by decide : 0 < 64), ?_⟩
  simp only [List.mem_cons, List.not_mem_nil, or_false] at hx
  rcases hx with rfl | rfl
  · exact .inl rfl
  · exact .inr (by show bankCrc Bank.cleared ≠ bankCrc Bank.cleared + 1; decide +kernel)

/-- The listed record hangs at the last seat, which no zone of the port names. -/
def listedOutside : State := { wall { heldBy .b .frozen with seat := some 1535 } with
  portB := { (wall tile).portB with commitList := [2047] } }

theorem witness_GroupClearAndCommitEmptyTheList :
    (listed.canonical ∧ (sending .a 0x37 [] listed).takes .a 0x37 9 [] [] ∧ 2047 ∈ ((sending .a 0x37 [] listed).port .a).commitList) ∧
    ((sending .a 0x38 [] listed).canonical ∧ (sending .a 0x38 [] listed).takes .a 0x38 9 [] [] ∧
      ∀ n ∈ ((sending .a 0x38 [] listed).port .a).commitList,
        (sending .a 0x38 [] listed).zonePass .a ((sending .a 0x38 [] listed).record n).seat = true) ∧
    ((sending .b 0x38 [] listedOutside).canonical ∧ (sending .b 0x38 [] listedOutside).takes .b 0x38 9 [] [] ∧
      ((sending .b 0x38 [] listedOutside).port .b).commitList = [] ++ 2047 :: [] ∧
      (sending .b 0x38 [] listedOutside).zonePass .b ((sending .b 0x38 [] listedOutside).record 2047).seat = false) :=
  ⟨⟨listed_canonical, sending_takes, by decide⟩, ⟨sending_canonical listed_canonical, sending_takes, by decide⟩,
    sending_canonical (by unfold State.canonical; decide +kernel), sending_takes, rfl, rfl⟩

/-- Work for a boundary: a commit and a drop of Port A, holds of Port B that expire and that run on, and a load with a record it created. -/
def busy (c : LoadState) (timer : Nat) : State :=
  let s := wallOf [(10, { heldBy .a .scheduled with identity := 1 }), (11, { heldBy .a .scheduled with identity := 2, pendingDamaged := true }),
    (12, { heldBy .b .frozen with identity := 3, holdTimer := 1 }), (13, { heldBy .b .opened with identity := 4, holdTimer := 2 }),
    (14, { madeTile with identity := 5, condition := if c = .committing then .scheduled else .frozen })]
  { s with load := { s.load with state := c, owner := some .b, timer := timer } }

/-- A load that commits, one whose timer runs out at the boundary and one whose timer runs on; and (R155) a SUSPECT record with a damaged word
in its active bank that the scrub does not reach. -/
theorem witness_CommitTakesEffectOrIsDropped :
    (∀ s ∈ [busy .committing 0, busy .active 1, busy .active 2], s.canonical ∧ s.directory ∧ s.clean ∧ s.ftu.current = .internal ∧
      s.ftu.expiryHeld = false ∧ s.ftu.now ≤ s.ftu.nextExpiry ∧ s.lossDeadline = none ∧ s.portA.scheduled = [10, 11] ∧
      (s.record 10).pendingDamaged = false ∧ (s.record 11).pendingDamaged = true ∧ (s.record 12).timerRuns = true ∧
      (s.record 12).holdTimer = 1 ∧ (s.record 13).timerRuns = true ∧ (s.record 13).holdTimer = 2 ∧ s.load.list = [14]) ∧
    let s := damaged [⟨2047, .bank .bank0 .gains 0, [0, 1]⟩] (wallOf [(2047, { heldBy .a .scheduled with state := .suspect })])
    s.canonical ∧ s.directory ∧ s.ftu.current = .internal ∧ s.ftu.expiryHeld = false ∧ s.ftu.now ≤ s.ftu.nextExpiry ∧ s.lossDeadline = none ∧
      (s.record 2047).active = .bank0 ∧ (s.record 2047).state = .suspect ∧ s.portA.scheduled = [2047] ∧
      (s.record 2047).pendingDamaged = false ∧ s.cursor < 2048 ∧ s.params.scrubRate ≤ (2047 + 2048 - s.cursor) % 2048 := by
  refine ⟨fun s hs => ?_, by unfold State.canonical; decide +kernel, State.directory_of_agrees (by decide +kernel), rfl, rfl, by decide, rfl,
    rfl, rfl, by decide, rfl, by decide, by decide⟩
  simp only [List.mem_cons, List.not_mem_nil, or_false] at hs
  rcases hs with rfl | rfl | rfl <;>
    exact ⟨by unfold State.canonical; decide +kernel, State.directory_of_agrees (by decide +kernel), rfl, rfl, rfl, by decide, rfl, by decide,
      rfl, rfl, rfl, rfl, rfl, rfl, by decide⟩

theorem witness_ExpiredHoldsAreDiscarded :
    let s := wall { heldBy .b .frozen with holdTimer := 0 }
    (s.canonical ∧ (∀ n, (s.record n).expires Port.b.other = false) ∧ (s.record 2047).expires .b = true) ∧
    State.reset.canonical ∧ ∀ n p, (State.reset.record n).expires p = false := by
  refine ⟨⟨wall_canonical (by decide), fun n => ?_, rfl⟩, reset_canonical, fun n p => by cases p <;> rfl⟩
  rw [wall_record]; split <;> rfl

/-! ### Frame timing -/

/-- Sources and monitor as given, the last pulse and the last boundary at 0, the clock at a moment. -/
def timed (current requested : Source) (m : Monitor) (now : Nat) : State :=
  { State.reset with ftu := { Ftu.reset with
      now := now, current := current, requested := requested, switchPending := decide (requested ≠ current), monitor := m, lastPulse := some 0 } }

theorem witness_SelectSourceSetsTheRequest :
    let sent := fun (source : Source) (s : State) => sending .a 0x40 (byteOf source.code) s
    ((sent .external settled).takes .a 0x40 9 (byteOf Source.external.code) [] ∧ (sent .external settled).ftu.expiryHeld = false) ∧
    ((sent .internal (timed .external .external .locked 16666)).takes .a 0x40 9 (byteOf Source.internal.code) [] ∧
      (sent .internal (timed .external .external .locked 16666)).ftu.expiryHeld = false ∧
      (sent .internal (timed .external .external .locked 16666)).ftu.now < 16667) :=
  ⟨⟨sending_takes, rfl⟩, sending_takes, rfl, by decide⟩

/-- The clauses that end in a boundary and those that just do not: INTERNAL on external timing at its next expiry, and INTERNAL, with EXTERNAL
beside it, while an expiry is held; and a code that names no source. -/
theorem witness_SelectSourceAtAnExpiry :
    (let s := sending .a 0x40 (byteOf Source.internal.code) (timed .external .external .locked 16667);
      s.takes .a 0x40 9 (byteOf Source.internal.code) [] ∧ s.ftu.current = .external ∧ s.ftu.nextExpiry ≤ s.ftu.now) ∧
    (∀ source : Source, ∀ now ∈ [16666, 16667],
      let t := timed .internal .external .locked now
      let s := sending .a 0x40 (byteOf source.code) { t with ftu := { t.ftu with expiryHeld := true } }
      s.takes .a 0x40 9 (byteOf source.code) [] ∧ s.ftu.current = .internal ∧ s.ftu.expiryHeld = true ∧
        (s.ftu.now < s.ftu.nextExpiry ↔ now = 16666)) ∧
    1 < 2 ∧ (sending .a 0x40 (byteOf 2) settled).takes .a 0x40 9 (byteOf 2) [] :=
  ⟨⟨sending_takes, rfl, by decide⟩, fun _ n h => ⟨sending_takes, rfl, rfl, by simp at h; show n < 16667 ↔ n = 16666; omega⟩, by decide, sending_takes⟩

/-- A pulse at a moment that no expiry and no loss precedes. -/
def Unpreceded (s : State) (elapsed : Nat) : Prop :=
  (∀ e, s.expiryDeadline = some e → s.ftu.now + elapsed ≤ e) ∧ ∀ l, s.lossDeadline = some l → s.ftu.now + elapsed ≤ l

theorem unpreceded {current requested : Source} {m : Monitor} {elapsed : Nat} (h : elapsed ≤ 16667 ∨ current = .external ∧ requested = .external ∧
    elapsed ≤ 25000) : Unpreceded (timed current requested m 0) elapsed := by
  constructor
  · intro e he
    cases current <;> cases requested <;> simp_all [State.expiryDeadline, timed, Ftu.reset]
  · intro l hl
    simp only [State.lossDeadline] at hl
    split at hl
    · cases hl
    · simp [timed, Params.lossDelay, State.reset, Params.default] at hl
      simp [timed]; omega

/-- A pulse as early, and as late, as the window takes it; one a microsecond before it. -/
theorem witness_PulseMovesTheMonitorAndPacesFrames :
    Unpreceded (timed .internal .external .noReference 0) 16667 ∧
    (Unpreceded (timed .internal .external (.acquiring 6) 0) 15626 ∧ 16667 - 16667 / 16 ≤ 15626) ∧
    (Unpreceded (timed .internal .external (.acquiring 7) 0) 15625 ∧ ¬ 16667 - 16667 / 16 ≤ 15625) ∧
    (Unpreceded (timed .external .external .locked 0) 17708 ∧ 17708 ≤ 16667 + 16667 / 16) ∧
    Unpreceded (timed .external .internal .locked 0) 15626 :=
  ⟨unpreceded (by decide), ⟨unpreceded (by decide), by decide⟩, ⟨unpreceded (by decide), by decide⟩, ⟨unpreceded (by decide), by decide⟩,
    unpreceded (by decide)⟩

theorem timed_sound {current requested : Source} {now : Nat} : (timed current requested .locked now).ftu.sound := by
  refine ⟨?_, nofun, fun _ => rfl, nofun, nofun⟩
  cases current <;> cases requested <;> simp [timed]

/-- A shorter NOMINAL_PERIOD on either timing, a microsecond before the expiry and at it, a microsecond before the loss and at it, and with the
loss due before the expiry. -/
theorem witness_NominalPeriodMakesAnExpiryOrALossDue : ∀ source : Source, ∀ x ∈ [(3999, 0), (4000, 0), (5999, 0), (6000, 0), (6000, 2001)],
    let t := timed source source .locked x.1
    let s : State := { t with ftu := { t.ftu with lastBoundary := x.2 } }
    Setting s 0x0E 4000 ∧ s.ftu.switchPending = false ∧ s.ftu.sound ∧ s.ftu.current = source ∧ s.ftu.monitor ≠ .noReference ∧
      s.ftu.lastPulse = some 0 ∧ (s.ftu.lastBoundary + 4000 ≤ s.ftu.now ↔ x ∈ [(4000, 0), (5999, 0), (6000, 0)]) ∧
      (0 + 3 * 4000 / 2 ≤ s.ftu.now ↔ x ∈ [(6000, 0), (6000, 2001)]) := by
  intro source x hx
  obtain ⟨h1, h2, h3, h4, h5⟩ := timed_sound (current := source) (requested := source) (now := x.1)
  refine ⟨setting, by cases source <;> rfl, ⟨h1, h2, h3, h4, h5⟩, rfl, nofun, rfl, ?_⟩
  simp only [List.mem_cons, List.not_mem_nil, or_false] at hx
  rcases hx with rfl | rfl | rfl | rfl | rfl <;> simp [timed]

/-- The rows that end LOCKED and those that leave it, on every pair of sources, with the next expiry before the pulse and behind it. -/
theorem witness_PulseLocksSwitchesAndFallsBack :
    (∀ current requested elapsed, elapsed ∈ [15625, 15626, 16667] →
      Unpreceded (timed current requested .locked 0) elapsed ∧ (timed current requested .locked 0).ftu.sound) ∧
    (Unpreceded (timed .external .external .locked 0) 17709 ∧ ¬ 17709 ≤ 16667 + 16667 / 16 ∧ 16667 ≤ 17709) ∧
    (let s : State := { timed .internal .external .locked 0 with ftu := { (timed .internal .external .locked 0).ftu with expiryHeld := true } };
      s.ftu.sound ∧ s.ftu.expiryHeld = true ∧ Unpreceded s 15625 ∧ Unpreceded s 17709) ∧
    ∀ boundary ∈ [7668, 7669], let s : State := { State.reset with ftu := { Ftu.reset with
        now := 15625, monitor := .acquiring 7, lastPulse := some 0, lastBoundary := boundary, nextExpiry := boundary + 16667 } };
      s.ftu.sound ∧ s.ftu.current = .internal ∧ s.ftu.requested = .external ∧ Unpreceded s 376 ∧
        (16667 / 2 ≤ 15625 + 376 - boundary ↔ boundary = 7668) := by
  have held : ∀ elapsed, elapsed ≤ 25000 → ∀ e, some 25000 = some e → 0 + elapsed ≤ e := fun _ h _ k => by cases k; omega
  refine ⟨fun c r e he => ⟨unpreceded (.inl ?_), timed_sound⟩, ⟨unpreceded (by decide), by decide, by decide⟩,
    ⟨⟨by simp [timed], fun _ => ⟨rfl, rfl, rfl⟩, nofun, nofun, nofun⟩, rfl, ⟨nofun, held _ (by decide)⟩, nofun, held _ (by decide)⟩,
    fun b hb => ⟨⟨⟨fun _ => by show Source.external ≠ .internal; decide, fun _ => rfl⟩, nofun, nofun, fun n h => by cases h; decide, nofun⟩, rfl, rfl, ⟨fun e h => ?_, fun l h => ?_⟩, ?_⟩⟩
  · simp at he; omega
  · cases h; simp at hb; show 15625 + 376 ≤ b + 16667; omega
  · cases h; exact (by decide : 15625 + 376 ≤ 0 + Params.default.lossDelay)
  · simp at hb; omega

theorem witness_InternalExpiryProducesABoundary : ∀ now ∈ [0, 16667],
    let s : State := { timed .internal .external .noReference now with cursor := 2047 }
    s.ftu.current = .internal ∧ s.ftu.expiryHeld = false ∧ s.ftu.now ≤ s.ftu.nextExpiry ∧ (∀ l, s.lossDeadline = some l → s.ftu.nextExpiry ≤ l) ∧
      s.cursor < 2048 := by
  intro now h
  exact ⟨rfl, rfl, by simp at h; simp [timed, Ftu.reset]; omega, nofun, by show 2047 < 2048; decide⟩

theorem ftu_keep {f : Ftu} {s : State} (h : s.canonical ∧ s.directory) :
    ({ s with ftu := f } : State).canonical ∧ ({ s with ftu := f } : State).directory := h

/-- With the last pulse at 0 and the parameters as after reset the loss falls due at 25000. -/
theorem loss_deadline {s : State} (h : s.ftu.monitor ≠ .noReference ∧ s.ftu.lastPulse = some 0 ∧ s.params = Params.default) :
    s.lossDeadline = some 25000 := by
  simp [State.lossDeadline, h, Params.lossDelay, Params.default]

theorem loss_at {s : State} {n : Nat} (h : s.ftu.monitor ≠ .noReference ∧ s.ftu.lastPulse = some 0 ∧ s.params = Params.default)
    (hn : n ≤ 25000) : ∀ l, s.lossDeadline = some l → n ≤ l := fun l hl => by
  rw [loss_deadline h] at hl; cases hl; exact hn

/-- An expiry that completes a switch to INTERNAL, with work of every kind at the boundary; one with both sources EXTERNAL, which has passed
and which has not; and a held one. -/
theorem witness_InternalExpirySwitchesOrHasNoEffect :
    (let s := busy .active 1
     let s : State := { s with ftu := { (timed .external .internal .locked 0).ftu with nextExpiry := 25000 } }
     s.canonical ∧ s.directory ∧ s.clean ∧ s.ftu.current = .external ∧ s.ftu.requested = .internal ∧ s.ftu.now ≤ s.ftu.nextExpiry ∧
       (∀ l, s.lossDeadline = some l → s.ftu.nextExpiry ≤ l) ∧ s.portA.scheduled = [10, 11]) ∧
    (∀ now ∈ [16666, 16668], let s := timed .external .external .locked now
      s.ftu.current = .external ∧ s.ftu.requested = .external ∧ ∀ l, s.lossDeadline = some l → s.ftu.nextExpiry ≤ l) ∧
    let t := timed .internal .external .locked 0
    let s : State := { t with ftu := { t.ftu with expiryHeld := true } }
    s.ftu.current = .internal ∧ s.ftu.expiryHeld = true ∧ ∀ l, s.lossDeadline = some l → s.ftu.nextExpiry ≤ l := by
  have h : (busy .active 1).canonical ∧ (busy .active 1).directory :=
    ⟨by unfold State.canonical; decide +kernel, State.directory_of_agrees (by decide +kernel)⟩
  obtain ⟨h1, h2⟩ := ftu_keep (f := { (timed .external .internal .locked 0).ftu with nextExpiry := 25000 }) h
  exact ⟨⟨h1, h2, rfl, rfl, rfl, Nat.zero_le _, loss_at (n := 25000) ⟨nofun, rfl, rfl⟩ (by decide), (by decide : (busy .active 1).portA.scheduled = [10, 11])⟩,
    fun _ _ => ⟨rfl, rfl, loss_at (n := 16667) ⟨nofun, rfl, rfl⟩ (by decide)⟩, rfl, rfl, loss_at (n := 16667) ⟨nofun, rfl, rfl⟩ (by decide)⟩

/-- A seat that the boundary takes to STATUS_TIMEOUT, and one that it does not. -/
theorem witness_InternalExpiryAgesTheSeats : ∀ since ∈ [599, 598], let s := agedWall since
    s.canonical ∧ s.ftu.current = .internal ∧ s.ftu.expiryHeld = false ∧ s.ftu.now ≤ s.ftu.nextExpiry ∧ s.lossDeadline = none ∧
      (s.seat 1535).kind = .placed 2047 ∧ (s.seat 1535).origin = .reported ∧ (s.seat 1535).fresh = .fresh ∧ s.params.statusTimeout = 600 ∧
      (s.seat 1535).since = since :=
  fun n h => ⟨by
    simp only [List.mem_cons, List.not_mem_nil, or_false] at h
    unfold State.canonical; rcases h with rfl | rfl <;> decide +kernel, rfl, rfl, (by decide : 0 ≤ 16667), rfl, rfl, rfl, rfl, rfl, rfl⟩

theorem scrubbed {l : List Damage} {r : Record} {s : State} (h : s.canonical ∧ s.directory ∧ s.ftu.current = .internal ∧
      s.ftu.expiryHeld = false ∧ s.ftu.now ≤ s.ftu.nextExpiry ∧ s.ftu.monitor = .noReference) (hr : s.record 2047 = r) :
    let s : State := { damaged l s with cursor := 2032, params := { Params.default with scrubRate := 16 } }
    s.canonical ∧ s.directory ∧ s.ftu.current = .internal ∧ s.ftu.expiryHeld = false ∧ s.ftu.now ≤ s.ftu.nextExpiry ∧ s.lossDeadline = none ∧
      s.store.damage = l ∧ s.cursor < 2048 ∧ (2047 + 2048 - s.cursor) % 2048 < s.params.scrubRate ∧ s.record 2047 = r := by
  obtain ⟨h1, h2, h3, h4, h5, h6⟩ := h
  exact ⟨h1, h2, h3, h4, h5, if_pos h6, rfl, (by decide : 2032 < 2048), (by decide : (2047 + 2048 - 2032) % 2048 < 16), hr⟩

/-- The last slot that the scrub reaches: FREE, unheld and ABSENT, and held with a timer that runs on; words of every kind, one flipped bit and
two. -/
theorem witness_InternalExpiryScrubsDamage : ∀ r ∈ [none, some tile, some { heldBy .a .opened with holdTimer := 2 }],
    ∀ w ∈ [ArrayWord.identity, .state, .bank .bank0 .trims 0, .bank .bank1 .matrix 0, .drift .reading 0], ∀ bits ∈ [[0], [0, 71]],
    let s : State := { damaged [⟨2047, w, bits⟩] (wallOf (r.elim [] fun r => [(2047, r)])) with
      cursor := 2032, params := { Params.default with scrubRate := 16 } }
    s.canonical ∧ s.directory ∧ s.ftu.current = .internal ∧ s.ftu.expiryHeld = false ∧ s.ftu.now ≤ s.ftu.nextExpiry ∧ s.lossDeadline = none ∧
      s.store.damage = [⟨2047, w, bits⟩] ∧ s.cursor < 2048 ∧ (2047 + 2048 - s.cursor) % 2048 < s.params.scrubRate ∧
      s.record 2047 = r.getD Record.blank := by
  intro r hr w _ bits _
  have agree : ∀ r ∈ [none, some tile, some { heldBy .a .opened with holdTimer := 2 }],
      let s := wallOf (r.elim [] fun r => [(2047, r)]); s.canonical ∧ s.agrees = true ∧ s.record 2047 = r.getD Record.blank := by
    unfold State.canonical; decide +kernel
  obtain ⟨h1, h2, h3⟩ := agree r hr
  exact scrubbed ⟨h1, State.directory_of_agrees h2, rfl, rfl, (by decide : 0 ≤ 16667), rfl⟩ h3

/-- The clauses about a store without errors, with a record at a seat that no claim reaches. -/
theorem witness_InternalExpiryLatchesTheSeats :
    let s := wall hung
    s.ftu.current = .internal ∧ s.ftu.expiryHeld = false ∧ s.ftu.now ≤ s.ftu.nextExpiry ∧ s.lossDeadline = none ∧ s.canonical ∧ s.clean ∧
      (s.record 2047).inUse = true ∧ (s.record 2047).hold = .none ∧ (s.seat 1535).kind = .placed 2047 ∧ s.load.list = [] ∧
      s.portA.scheduled = [] ∧ s.portB.scheduled = [] ∧ s.load.scheduled = [] :=
  ⟨rfl, rfl, by decide, rfl, wall_canonical (by decide), rfl, rfl, rfl, rfl, rfl, rfl, rfl, rfl⟩

theorem witness_ReferenceLossEndsExternalTiming : ∀ requested ∈ [Source.external, .internal], ∀ now ∈ [0, 25000],
    let s := timed .external requested .locked now
    let t : State := { s with ftu := { s.ftu with nextExpiry := 25000 } }
    t.lossDeadline = some 25000 ∧ t.ftu.now ≤ 25000 ∧ t.ftu.sound ∧ ∀ e, t.expiryDeadline = some e → 25000 ≤ e := by
  intro r hr now h
  have hs : (timed .external r .locked now).ftu.sound := timed_sound
  refine ⟨by simp [State.lossDeadline, timed, Params.lossDelay, State.reset, Params.default], by simp at h; simp [timed]; omega, ?_, fun e he => ?_⟩
  · obtain ⟨h1, h2, h3, h4, h5⟩ := hs
    exact ⟨h1, h2, h3, h4, h5⟩
  simp only [List.mem_cons, List.not_mem_nil, or_false] at hr
  rcases hr with rfl | rfl
  · cases he
  · simp [State.expiryDeadline, timed] at he; omega

/-- The clauses without a boundary: the expiry lies behind the loss, or internal timing is not held. -/
theorem witness_ReferenceLossWithoutABoundary :
    (let t : State := { timed .external .external .locked 0 with ftu := { (timed .external .external .locked 0).ftu with nextExpiry := 25001 } };
      t.ftu.current = .external ∧ t.lossDeadline = some 25000 ∧ 25000 < t.ftu.nextExpiry ∧ t.expiryDeadline = none) ∧
    let t : State := { timed .internal .internal .locked 0 with ftu := { (timed .internal .internal .locked 0).ftu with nextExpiry := 25000 } }
    t.ftu.current = .internal ∧ t.ftu.expiryHeld = false ∧ t.lossDeadline = some 25000 ∧ ∀ e, t.expiryDeadline = some e → 25000 ≤ e := by
  refine ⟨⟨rfl, ?_, by decide, rfl⟩, rfl, rfl, ?_, fun e he => ?_⟩
  · simp [State.lossDeadline, timed, Params.lossDelay, State.reset, Params.default]
  · simp [State.lossDeadline, timed, Params.lossDelay, State.reset, Params.default]
  · simp [State.expiryDeadline, timed, Ftu.reset] at he; omega

/-- A loss that releases a held expiry, a microsecond before the next expiry and at it. -/
theorem witness_ReferenceLossReleasesAHeldExpiry : ∀ expiry ∈ [25000, 25001],
    let t := timed .internal .external .locked 0
    let s : State := { t with ftu := { t.ftu with expiryHeld := true, nextExpiry := expiry } }
    s.lossDeadline = some 25000 ∧ s.ftu.now ≤ 25000 ∧ s.ftu.sound ∧ s.ftu.current = .internal ∧ s.ftu.expiryHeld = true ∧
      ∀ e, s.expiryDeadline = some e → 25000 ≤ e :=
  fun _ _ => ⟨loss_deadline ⟨nofun, rfl, rfl⟩, Nat.zero_le _, ⟨by simp [timed], fun _ => ⟨rfl, rfl, rfl⟩, nofun, nofun, nofun⟩, rfl, rfl, nofun⟩

/-- A NOMINAL_PERIOD whose loss delay is above 65535, at both ends. -/
theorem witness_TimingWithALongLossDelay : ∀ period ∈ [43691, 131071],
    let s := sending .b 0x41 [] { State.reset with params := { Params.default with nominalPeriod := period } }
    s.takes .b 0x41 9 [] [] ∧ 43690 < s.params.nominalPeriod ∧ s.params.nominalPeriod ≤ 131071 :=
  fun p h => ⟨sending_takes, by simp at h; show 43690 < p; omega, by simp at h; show p ≤ 131071; omega⟩

theorem witness_TimingAndIntegrityAreRead :
    let s : State := { State.reset with params := { Params.default with nominalPeriod := 43690 } }
    let t : State := { s with store := { s.store with finding := some ⟨1, 2047, .drift, .sc⟩ } }
    ((sending .b 0x41 [] s).takes .b 0x41 9 [] [] ∧ (sending .b 0x41 [] s).params.nominalPeriod ≤ 43690) ∧
    ((sending .b 0x4C [] t).takes .b 0x4C 9 [] [] ∧ (sending .b 0x4C [] t).store.finding = some ⟨1, 2047, .drift, .sc⟩ ∧
      0 < (sending .b 0x4C [] t).params.scrubRate) ∧
    ((sending .b 0x4C [] s).takes .b 0x4C 9 [] [] ∧ (sending .b 0x4C [] s).store.finding = none) :=
  ⟨⟨sending_takes, Nat.le_refl _⟩, ⟨sending_takes, rfl, by decide⟩, sending_takes, rfl⟩

/-! ### The bulk load -/

theorem witness_LoadBeginStartsALoad :
    let sent := fun (s : State) => sending .a 0x50 (u16 2047) s
    2047 ≤ 2047 ∧ ((sent State.reset).takes .a 0x50 9 (u16 2047) [] ∧ (sent State.reset).load.state ≠ .active ∧
      (sent State.reset).load.state ≠ .committing) ∧
    ((sent (loading .b .committing)).takes .a 0x50 9 (u16 2047) [] ∧ (sent (loading .b .committing)).load.state = .committing ∧
      (sent (loading .b .committing)).load.owner = some .b) :=
  ⟨by decide, ⟨sending_takes, by decide, by decide⟩, sending_takes, rfl, rfl⟩

/-- An ACTIVE load of Port B that expects some records more, on a wall of one record. -/
def loadingMore (r : Record) (remaining : Nat) : State :=
  { wall r with load := { Load.reset with state := .active, owner := some .b, remaining := remaining } }

theorem loadingMore_canonical {r : Record} {n : Nat} (h : r ≠ Record.blank) : (loadingMore r n).canonical := by
  obtain ⟨h1, h2, h3, h4, h5⟩ := wall_canonical h
  exact ⟨h1, h2, h3, h4, h5⟩

/-- An existing record, with more records to come and as the last; and an identity without a record. -/
theorem witness_LoadRecordTakesARecord : (∀ remaining ∈ [0, 1, 2047],
      let s := sending .b 0x51 (recordImage serial 65535 edgeBank) (loadingMore tile remaining)
      s.canonical ∧ s.clean ∧ 0 < serial ∧ serial < 2 ^ 48 ∧ edgeBank.valid = true ∧
        s.takes .b 0x51 9 (recordImage serial 65535 edgeBank) [] ∧ s.load.state = .active ∧ s.load.owner = some .b ∧
        0 ≤ s.load.remaining ∧ s.load.remaining ≤ 2047 ∧ s.lookup serial = some ⟨2047, 65535⟩ ∧ (s.record 2047).hold = .none ∧
        s.zonePass .b (s.record 2047).seat = true) ∧
    ∀ remaining ∈ [0, 1], let s := sending .b 0x51 (recordImage 1 0 edgeBank) { loadingMore tile remaining with freeQueue := [2046] }
      s.canonical ∧ s.clean ∧ s.takes .b 0x51 9 (recordImage 1 0 edgeBank) [] ∧ s.load.state = .active ∧ s.load.owner = some .b ∧
        s.lookup 1 = none ∧ s.allocates 2046 [] none ∧ s.load.remaining = remaining := by
  refine ⟨fun n h => ?_, ?_⟩
  · have hr : (sending .b 0x51 (recordImage serial 65535 edgeBank) (loadingMore tile n)).load.remaining = n := rfl
    refine ⟨sending_canonical (loadingMore_canonical (by decide)), rfl, by decide, by decide, edgeBank_valid, sending_takes, rfl, rfl, ?_, ?_,
      rfl, rfl, rfl⟩ <;> rw [hr] <;> simp at h <;> omega
  · intro n _
    obtain ⟨h1, h2, h3, h4, h5⟩ := loadingMore_canonical (r := tile) (n := n) (by decide)
    exact ⟨sending_canonical ⟨h1, h2, h3, h4, h5⟩, rfl, sending_takes, rfl, rfl, rfl, .inl ⟨rfl, rfl⟩, rfl⟩

/-- An identity without a record, as the last one expected and with more to come, where an auto-reclaim retires the record of identity 1. -/
theorem witness_LoadRecordReclaims : ∀ remaining : Nat, remaining ∈ [0, 2047] →
    let s := sending .b 0x51 (recordImage serial 0 edgeBank)
      { fullWall tile true with load := { Load.reset with state := .active, owner := some .b, remaining := remaining } }
    s.canonical ∧ s.clean ∧ s.takes .b 0x51 9 (recordImage serial 0 edgeBank) [] ∧ s.load.state = .active ∧ s.load.owner = some .b ∧
      s.load.remaining = remaining ∧ s.lookup serial = none ∧ s.allocates 0 [] (some 1) := by
  intro n _
  obtain ⟨h1, h2, h3, h4, h5⟩ := fullWall_canonical (r := tile) (b := true)
  exact ⟨sending_canonical ⟨h1, h2, h3, h4, h5⟩, rfl, sending_takes, rfl, rfl, rfl, (fullWall_lookup (b := true) (n := serial - 1)).trans rfl,
    sending_allocates (load_allocates fullWall_allocates)⟩

theorem witness_FailingLoadRecordAbortsTheLoad :
    let image := recordImage serial 65535 edgeBank
    let sent := fun (payload : List Byte) (s : State) => sending .b 0x51 payload s
    (49 ≤ image.length ∧ (sent image State.reset).takes .b 0x51 9 image [] ∧ (sent image State.reset).load.state ≠ .active) ∧
    ((sent image (loading .a .active)).takes .b 0x51 9 image [] ∧ (sent image (loading .a .active)).load.state = .active ∧
      (sent image (loading .a .active)).load.owner ≠ some .b) ∧
    (49 ≤ (List.replicate 49 (0 : Byte)).length ∧ crc16 ((List.replicate 49 (0 : Byte)).take 47) ≠ 0) ∧
    (49 ≤ (recordImage 0 0 Bank.cleared).length ∧ natAt (recordImage 0 0 Bank.cleared) 0 6 = 0 ∧
      crc16 ((recordImage 0 0 Bank.cleared).take 47) = BitVec.ofNat 16 (natAt (recordImage 0 0 Bank.cleared) 47 2)) ∧
    ((sent image (loadingMore loadedTile 0)).takes .b 0x51 9 image [] ∧ ((sent image (loadingMore loadedTile 0)).record 2047).hold = .load ∧
      (sent image (loadingMore loadedTile 0)).lookup serial = some ⟨2047, 65535⟩) ∧
    ((sent image (loadingMore (heldBy .b .opened) 0)).clean ∧ ((sent image (loadingMore (heldBy .b .opened) 0)).record 2047).hold = .portB) :=
  ⟨⟨by decide +kernel, sending_takes, by decide⟩, ⟨sending_takes, rfl, by decide⟩, ⟨by decide, by decide +kernel⟩,
    ⟨by decide +kernel, by decide +kernel, by decide +kernel⟩, ⟨sending_takes, rfl, rfl⟩, rfl, rfl⟩

/-- The checks of the bank, the zones and the pool: an image whose trim count is one above the last; an existing record at the last seat, which no
zone of Port B names; and an identity without a record with no slot free, AUTO_RECLAIM off and on. -/
theorem witness_LoadRecordFailsTheLaterChecks :
    (let payload := beBytes 6 serial ++ u16 0 ++ List.replicate 38 0 ++ [(5 : Byte)]
     let payload := payload ++ halfBytes (crc16 payload)
     49 ≤ payload.length ∧ natAt payload 0 6 ≠ 0 ∧ crc16 (payload.take 47) = BitVec.ofNat 16 (natAt payload 47 2) ∧ payload.length - 2 = 47 ∧
       (∀ bank, Bank.valid bank = true → (payload.take 47).drop 8 ≠ bankImage bank) ∧
       (sending .b 0x51 payload (loadingMore tile 0)).takes .b 0x51 9 payload []) ∧
    (let s := sending .b 0x51 (recordImage serial 65535 edgeBank) (loadingMore hung 0);
      s.takes .b 0x51 9 (recordImage serial 65535 edgeBank) [] ∧ s.clean ∧ s.load.state = .active ∧ s.load.owner = some .b ∧
        s.lookup serial = some ⟨2047, 65535⟩ ∧ (s.record 2047).hold = .none ∧ (s.record 2047).seat = some 1535 ∧
        s.outsideZones .b 1535) ∧
    ∀ x ∈ [(tile, false), (heldBy .a .opened, true)],
      let s := sending .b 0x51 (recordImage serial 65535 edgeBank)
        { fullWall x.1 x.2 with load := { Load.reset with state := .active, owner := some .b, remaining := 0 } }
      s.takes .b 0x51 9 (recordImage serial 65535 edgeBank) [] ∧ s.load.state = .active ∧ s.load.owner = some .b ∧ s.lookup serial = none ∧
        s.allocatesNone := by
  refine ⟨⟨by decide +kernel, by decide +kernel, by decide +kernel, by decide +kernel, fun b hb h => ?_, sending_takes⟩,
    ⟨sending_takes, rfl, rfl, rfl, rfl, rfl, rfl, by unfold State.outsideZones; decide⟩, fun x hx => ⟨sending_takes, rfl, rfl, ?_, sending_allocatesNone (load_allocatesNone ?_)⟩⟩
  · have e : (List.take 47 (beBytes 6 serial ++ u16 0 ++ List.replicate 38 0 ++ [(5 : Byte)] ++
      halfBytes (crc16 (beBytes 6 serial ++ u16 0 ++ List.replicate 38 0 ++ [5])))).drop 8 = List.replicate 38 (0 : Byte) ++ [5] := by
      decide +kernel
    exact bad_image hb (e.symm.trans h)
  · exact (fullWall_lookup (r := x.1) (b := x.2) (n := serial - 1)).trans rfl
  · simp only [List.mem_cons, List.not_mem_nil, or_false] at hx
    rcases hx with rfl | rfl
    · exact fullWall_allocatesNone.1
    · exact fullWall_allocatesNone.2

theorem witness_AbortUndoesTheLoad :
    let s := sending .b 0x52 [] loadedWall
    (s.canonical ∧ s.directory ∧ s.takes .b 0x52 9 [] [] ∧ s.load.state = .active ∧ s.load.owner = some .b ∧
      (2046 ∈ s.load.list ∧ (s.record 2046).createdByLoad = true ∧ (s.record 2046).seat = none) ∧
      (2047 ∈ s.load.list ∧ (s.record 2047).createdByLoad = false) ∧ 2045 ∉ s.load.list) ∧
    (loadedWall.canonical ∧ loadedWall.directory ∧ loadedWall.load.state = .active ∧ loadedWall.load.timer = 0) ∧
    (State.reset.load.state ≠ .active ∧ (busy .active 1).load.timer ≠ 0) ∧
    ((sending .a 0x52 [] State.reset).takes .a 0x52 9 [] [] ∧ (sending .a 0x52 [] State.reset).load.state ≠ .active ∧
      (sending .a 0x52 [] State.reset).load.state ≠ .committing) ∧
    ((sending .a 0x52 [] loadedWall).takes .a 0x52 9 [] [] ∧ (sending .a 0x52 [] loadedWall).load.owner ≠ some .a) ∧
    ((sending .b 0x52 [] (loading .b .committing)).takes .b 0x52 9 [] [] ∧ (sending .b 0x52 [] (loading .b .committing)).load.state = .committing ∧
      (sending .b 0x52 [] (loading .b .committing)).load.owner = some .b) :=
  ⟨⟨sending_canonical loadedWall_canonical, sending_directory loadedWall_directory, sending_takes, rfl, rfl, ⟨by decide, rfl, rfl⟩,
      ⟨by decide, rfl⟩, by decide⟩, ⟨loadedWall_canonical, loadedWall_directory, rfl, rfl⟩, by decide, ⟨sending_takes, by decide, by decide⟩,
    ⟨sending_takes, by decide⟩, sending_takes, rfl, rfl⟩

theorem witness_SeatAndLoadAreRead :
    (1535 ≤ 1535 ∧ (sending .b 0x22 (u16 1535) (wall hung)).takes .b 0x22 9 (u16 1535) []) ∧
    (1535 < 1536 ∧ (sending .b 0x22 (u16 1536) State.reset).takes .b 0x22 9 (u16 1536) []) ∧
    ∀ c, (sending .a 0x53 [] (loading .b c)).takes .a 0x53 9 [] [] ∧ (sending .a 0x53 [] (loading .b c)).load.state = c :=
  ⟨⟨by decide, sending_takes⟩, ⟨by decide, sending_takes⟩, fun _ => ⟨sending_takes, rfl⟩⟩

/-! ### Events, counters and pixels -/

theorem witness_EventSetsAndLines : (sending .b 0x60 [] State.reset).takes .b 0x60 9 [] [] ∧
    (∀ mask : Half, (sending .b 0x61 (halfBytes mask) State.reset).takes .b 0x61 9 (halfBytes mask) []) ∧
    ∀ mask : Half, (sending .a 0x62 (halfBytes mask) State.reset).takes .a 0x62 9 (halfBytes mask) [] :=
  ⟨sending_takes, fun _ => sending_takes, fun _ => sending_takes⟩

theorem witness_CountersAreReadAndCleared : (sending .b 0x63 [] State.reset).takes .b 0x63 9 [] [] ∧
    (sending .a 0x64 [] State.reset).takes .a 0x64 9 [] [] ∧ (sending .b 0x64 [] State.reset).takes .b 0x64 9 [] [] :=
  ⟨sending_takes, sending_takes, sending_takes⟩

/-- The last seat lit, and a burst for it whose next pixel has an index. -/
def lit (index : Nat) : State :=
  let entry : SnapEntry := .lit .record edgeBank.matrix edgeBank.trims edgeBank.gains
  { State.reset with cd := { Cd.reset with snapshot := [(1535, entry)], burst := some ⟨1535, entry, Cd.reset.settings, false, index⟩ } }

theorem witness_PixelsFollowTheirBurst :
    (0 < (lit 0).cd.settings.cols ∧ 0 < (lit 0).cd.settings.rows ∧ 1536 ≤ (1536 : BitVec 11).toNat ∧
      (Table.get .dark (lit 0).cd.snapshot 1534 = .dark) ∧ (1535 : BitVec 11).toNat < 1536 ∧ (lit 0).cd.withdrawn = false ∧
      Table.get .dark (lit 0).cd.snapshot 1535 = .lit .record edgeBank.matrix edgeBank.trims edgeBank.gains) ∧
    (∀ b, (lit 16383).cd.burst = some b → b.tag.toNat < 1536 ∧ b.withdrawn = false ∧ b.index < b.settings.cols * b.settings.rows) ∧
    (∀ b, (lit 16384).cd.burst = some b → b.index = b.settings.cols * b.settings.rows) ∧ State.reset.cd.burst = none := by
  refine ⟨⟨by decide, by decide, by decide, rfl, by decide, rfl, rfl⟩, fun b h => ?_, fun b h => ?_, rfl⟩
  · cases h; exact ⟨by decide, rfl, by decide⟩
  · cases h; rfl

/-! ### Encodings and invariants -/

theorem witness_UnityCorrectionIsTheIdentity : (⟨128, 128, false⟩ : Settings).temporal = false := rfl

theorem witness_BankImageRoundTrip : edgeBank.valid = true ∧ (unityBank 32768).valid = true := by decide

/-- Each field of a trim entry at fault behind a good entry: an edge above 3, a repeated edge, and a width and a factor beyond either end. -/
theorem witness_TrimEntriesAtFault : ∀ x ∈ [([4, 1, 1, 0], 43), ([0, 1, 1, 0], 43), ([1, 0, 1, 0], 44), ([1, 9, 1, 0], 44), ([1, 8, 0, 127], 45),
      ([1, 1, 1, (1 : Byte)], 45)], let bytes := [0, 8, 1, 0] ++ x.1
    bytes.length = 4 * 2 ∧ (natAt bytes 0 1 ≤ 3 ∧ natAt bytes 1 1 = 8 ∧ natAt bytes 2 2 = 256) ∧ trimFault [] 39 bytes = some x.2 := by decide

/-- A frame with the longest gap and with none, and the lines at both ends of the count of idle periods. -/
theorem witness_SampledFrameRoundTrip : (([(0, 15), (255, 0)] : List (Byte × Nat)) ≠ [] ∧ ∀ e ∈ ([(0, 15), (255, 0)] : List (Byte × Nat)), e.2 < 16) ∧
    (List.replicate 8 false).length = 8 ∧ 16 ≤ 16 ∧ 0 + 15 < 16 := by decide

theorem witness_EveryStepKeeps : (loadedWall.canonical ∧ loadedWall.directory ∧ ∃ t, step loadedWall = .next t) ∧
    (State.reset.ftu.sound ∧ State.reset.bounded ∧ State.reset.countersBounded ∧ State.reset.params.inRange ∧ State.reset.ditherSound ∧
      State.reset.withinLimit) ∧ (wall hung).withinLimit := by
  refine ⟨⟨loadedWall_canonical, loadedWall_directory, _, rfl⟩, ⟨⟨by decide, nofun, nofun, nofun, nofun⟩, ?_, ?_, ?_, ⟨by decide, nofun⟩, ?_⟩, ?_⟩
  · exact ⟨⟨by decide, by decide, by decide⟩, ⟨by decide, by decide, by decide⟩, by decide⟩
  · intro n h; simp [State.reset, Store.reset, Counters.zero, Counters.values] at h; omega
  · intro q; cases q <;> decide
  · intro n v h; simp [State.record, Store.get, State.reset, Store.reset, Record.blank, Prim.toList] at h; omega
  · intro n v h; rw [wall_record] at h; split at h
    · simp [hung, tile, Prim.toList] at h; simp [wall, State.reset, Params.default]; omega
    · simp [Record.blank, Prim.toList] at h; omega

end Sys2Proof.Tests
end

section
/-! PROOF. What a release of RESET_N leaves, block by block, and the power-on state of R185. -/
namespace Sys2Proof.Machine

variable (s : State)

/-! ### The release, block by block -/

@[simp] theorem exec_resetNRelease : exec .resetNRelease s = .next s.release := rfl

/-- Every slot is FREE (R6). -/
@[simp] theorem State.release_record (n : Nat) : s.release.record n = Record.blank := rfl

/-- The event sets are empty and the counters 0; the level of ATTACH_B is the line's (R178, R189, R195). -/
@[simp] theorem State.release_nu :
    s.release.store.nu = ⟨EventSets.empty, EventSets.empty, s.store.nu.attachB, Counters.zero⟩ := rfl

@[simp] theorem State.release_lookup (x : Nat) : s.release.lookup x = none := rfl

/-- The free queue lists the whole pool in ascending order (R6). -/
@[simp] theorem State.release_freeQueue : s.release.freeQueue = List.range 2048 := by
  simp only [State.release, State.reset]

@[simp] theorem State.release_batchEntryOf (b : Nat) : batchEntryOf s.release.batches b = none := rfl

@[simp] theorem State.release_seat (n : Nat) : s.release.seat n = Seat.vacant := rfl

/-- The two ports are in one and the same state but for their zones. -/
theorem State.release_port (p : Port) : s.release.port p = PortState.reset (s.release.port p).zones := by
  cases p <;> rfl

@[simp] theorem State.release_zones_a : (s.release.port .a).zones = Zones.resetA := rfl

@[simp] theorem State.release_zones_b : (s.release.port .b).zones = Zones.resetB := rfl

@[simp] theorem State.release_ftu : s.release.ftu = Ftu.reset := rfl

@[simp] theorem State.release_cd : s.release.cd = Cd.reset := rfl

@[simp] theorem State.release_load : s.release.load = Load.reset := rfl

@[simp] theorem State.release_params : s.release.params = Params.default := rfl

/-! ### The zones after power-on (R179) -/

@[simp] theorem Zone.void_contains (n : Nat) : Zone.void.contains n = false := by
  simp only [Zone.contains, Zone.void]
  exact decide_eq_false (by omega)

/-- Port A passes exactly the seats 0..1535, by its zone 0: its other zones are empty. -/
theorem State.release_zonePass_a (n : Nat) : s.release.zonePass .a (some n) = decide (n ≤ 1535) := by
  have zone0 : (Zone.mk 0 1535).contains n = decide (n ≤ 1535) := by simp [Zone.contains]
  simp [State.zonePass, Zones.toList, Zones.resetA, zone0]

/-- Port B passes no seat: its four zones are empty. -/
theorem State.release_zonePass_b (n : Nat) : s.release.zonePass .b (some n) = false := by
  simp [State.zonePass, Zones.toList, Zones.resetB]

/-! ### The power-on state (R185) -/

/-- What the statement asks of each port holds of every port in its state after reset, whatever its zones. -/
theorem PortState.reset_cleared (z : Zones) :
    (PortState.reset z).messages = [] ∧ (PortState.reset z).answers = [] ∧ (PortState.reset z).commitList = [] ∧
      (PortState.reset z).scheduled = [] ∧ (PortState.reset z).outcome = ⟨0, 0, 0, none⟩ ∧ (PortState.reset z).expiry = none :=
  ⟨rfl, rfl, rfl, rfl, rfl, rfl⟩

/-- Settles O2: the release leads to `State.release`, whose blocks hold the power-on values clause by clause. -/
theorem resetReleaseRestoresPowerOnState : Obligations.ResetReleaseRestoresPowerOnState := by
  intro s
  refine ⟨s.release, exec_resetNRelease s, ?records, rfl, rfl, s.release_nu, s.release_lookup, s.release_freeQueue,
    s.release_batchEntryOf, ?seats, rfl, fun _ => rfl, rfl, ?ports, ?zones, ?latterBlocks⟩
  case records => exact fun n => by rw [s.release_record n]
  case seats => exact fun n => by rw [s.release_seat n, Seat.vacant]
  case ports => exact fun p => by rw [s.release_port p]; exact PortState.reset_cleared _
  case zones => exact fun n hn => ⟨by rw [s.release_zonePass_a n]; exact decide_eq_true hn, s.release_zonePass_b n⟩
  case latterBlocks =>
    rw [s.release_ftu, s.release_cd, s.release_load, s.release_params]
    exact ⟨rfl, rfl, rfl, rfl, rfl, rfl, rfl, rfl, rfl, rfl, rfl, fun _ => rfl, rfl, rfl, rfl, rfl, fun _ => ⟨rfl, rfl⟩,
      rfl, rfl, rfl, rfl⟩

end Sys2Proof.Machine
end

section
/-! PROOF. The event commands and the counter commands: what each reads, what it stores, and what stays (R189, R192 to R194, R196, R197). -/
namespace Sys2Proof.Machine

/-! ### A command whose own part touches the store alone -/

section
variable {s : State} {p : Port} {code : Nat} {tag : Byte} {payload bytes : List Byte} {rest : List Message} {aOnly : Bool}
  {fits : Nat → Bool} {body : Body}

/-- A command that is carried out and only replaces the store leaves that store and its answer. -/
theorem Cx.command_stores {st : Store} (h : s.takes p code tag payload rest) (hc : code < 256) (ha : aOnly = true → p = .a)
    (hf : fits payload.length = true) (hb : body p payload (s.taken p rest) = (.ok bytes, { s.taken p rest with store := st })) :
    Cx.command code aOnly fits body s = ({ s with store := st } : State).answered p rest tag .ok bytes := by
  rw [Cx.command_of_takes h hc ha hf, hb]
  cases p <;> rfl

/-- A command that is carried out and only reads leaves its answer and nothing else. -/
theorem Cx.command_reads (h : s.takes p code tag payload rest) (hc : code < 256) (ha : aOnly = true → p = .a)
    (hf : fits payload.length = true) (hb : body p payload (s.taken p rest) = (.ok bytes, s.taken p rest)) :
    Cx.command code aOnly fits body s = s.answered p rest tag .ok bytes := by
  rw [Cx.command_of_takes h hc ha hf, hb]
  exact Cx.answer_taken

/-- A command that is carried out and only changes the Notification Unit leaves that change and its answer. -/
theorem Cx.command_onNu {f : Nu → Nu} (h : s.takes p code tag payload rest) (hc : code < 256) (ha : aOnly = true → p = .a)
    (hf : fits payload.length = true) (hb : body p payload (s.taken p rest) = (.ok bytes, (s.taken p rest).onNu f)) :
    Cx.command code aOnly fits body s = (s.onNu f).answered p rest tag .ok bytes := by
  rw [State.onNu, State.taken_store] at hb
  exact Cx.command_stores h hc ha hf hb

end

/-! ### A port's event sets -/

section
variable {s : State} {p q : Port} {f : EventSets → EventSets} {n : Nu}

@[simp] theorem Nu.sets_onSets : (Nu.onSets p f n).sets p = f (n.sets p) := by cases p <;> rfl

@[simp] theorem Nu.attached_onSets : (Nu.onSets p f n).attached q = n.attached q := by cases p <;> cases q <;> rfl

/-- A line is high while its port is attached and the port's sets meet (R189). -/
theorem State.notify_iff : s.notify p = true ↔ s.store.nu.attached p = true ∧ (s.store.nu.sets p).meet = true := by
  simp only [State.notify, Nu.notify, Bool.and_eq_true]

/-- A change of an attached port's sets moves its line with them. -/
theorem State.notify_onSets (h : s.store.nu.attached p = true) :
    (s.onNu (Nu.onSets p f)).notify p = (f (s.store.nu.sets p)).meet := by
  simp [State.notify, Nu.notify, h]

end

/-- The fifteen kinds, in the order of their numbers (R190). -/
def Event.kinds : List Event :=
  [.commitDone, .holdExpired, .loadDone, .loadAborted, .messageDiscarded, .poolLow, .refFallback, .seatStale, .identityClash,
   .recordSuspect, .ceiling, .reportGap, .reportOverflow, .driftBatch, .unrecordedArrival]

theorem Event.kinds_number : Event.kinds.map Event.number = List.range 15 := rfl

/-- Every bit of a mask stands for a kind. -/
theorem Event.exists_number {i : Nat} (h : i < 15) : ∃ e : Event, e.number = i := by
  have hi : i ∈ Event.kinds.map Event.number := Event.kinds_number ▸ List.mem_range.2 h
  obtain ⟨e, _, he⟩ := List.mem_map.1 hi
  exact ⟨e, he⟩

/-- A mask names no kind exactly where it is 0. -/
theorem Event.mask_ne_zero_iff {m : BitVec 15} : m ≠ 0 ↔ ∃ e : Event, m.getLsbD e.number = true := by
  constructor
  · contrapose!
    intro h
    refine BitVec.eq_of_getLsbD_eq fun i hi => ?_
    obtain ⟨e, rfl⟩ := Event.exists_number hi
    simpa using h e
  · rintro ⟨e, he⟩ rfl
    simp at he

/-- The two sets of a port meet in a kind that is pending and enabled (R189). -/
theorem EventSets.meet_iff {e : EventSets} :
    e.meet = true ↔ ∃ k : Event, e.pending.getLsbD k.number = true ∧ e.enabled.getLsbD k.number = true := by
  simp only [EventSets.meet, bne_iff_ne, Event.mask_ne_zero_iff, BitVec.getLsbD_and, Bool.and_eq_true]

/-- The kinds named in a 2-byte mask: bit 15 is ignored (R193, R194). -/
theorem maskOf_halfBytes (mask : Half) : maskOf (halfBytes mask) = mask.setWidth 15 := by
  rw [maskOf, halfBytes, natAt_beBytes_alone mask.isLt]
  rfl

/-! ### The five commands as the executor runs them -/

section
variable (s : State)

theorem exec_readEvents : exec .readEvents s = .next (Cx.command 0x60 false (· == 0) Nu.readBody s) := rfl
theorem exec_clearEvents : exec .clearEvents s = .next (Cx.command 0x61 false (· == 2) Nu.clearBody s) := rfl
theorem exec_setEventEnables : exec .setEventEnables s = .next (Cx.command 0x62 false (· == 2) Nu.enableBody s) := rfl
theorem exec_readCounters : exec .readCounters s = .next (Cx.command 0x63 false (· == 0) Nu.countersBody s) := rfl
theorem exec_clearCounters : exec .clearCounters s = .next (Cx.command 0x64 true (· == 0) Nu.clearCountersBody s) := rfl

end

/-! ### What each command does with its message -/

section
variable {s : State} {p : Port} {tag : Byte} {rest : List Message}

/-- R192: READ_EVENTS reads both sets, the line and both conditions. -/
theorem exec_readEvents_of_takes (h : s.takes p 0x60 tag [] rest) :
    exec .readEvents s = .next (s.answered p rest tag .ok (maskBytes (s.store.nu.sets p).pending ++
      maskBytes (s.store.nu.sets p).enabled ++ flagByte (s.notify p) ++ flagByte s.poolLow ++ flagByte s.ftu.refFallback)) := by
  rw [exec_readEvents]
  exact congrArg _ (Cx.command_reads h (by decide) nofun rfl (by simp [Nu.readBody]))

/-- R193: CLEAR_EVENTS removes the kinds named from the pending set of its port. -/
theorem exec_clearEvents_of_takes {mask : Half} (h : s.takes p 0x61 tag (halfBytes mask) rest) :
    exec .clearEvents s = .next ((s.onNu (Nu.onSets p (EventSets.clear (mask.setWidth 15)))).answered p rest tag .ok
      (maskBytes ((s.store.nu.sets p).clear (mask.setWidth 15)).pending)) := by
  rw [exec_clearEvents]
  exact congrArg _ (Cx.command_onNu h (by decide) nofun rfl (by simp [Nu.clearBody, maskOf_halfBytes]))

/-- R194: SET_EVENT_ENABLES replaces the enable set of its port, and answers the level its line then has. -/
theorem exec_setEventEnables_of_takes {mask : Half} (h : s.takes p 0x62 tag (halfBytes mask) rest) :
    exec .setEventEnables s = .next ((s.onNu (Nu.onSets p (EventSets.enable (mask.setWidth 15)))).answered p rest tag .ok
      (maskBytes (mask.setWidth 15) ++ flagByte ((s.store.nu.sets p).enable (mask.setWidth 15)).meet)) := by
  have ⟨_, attached, _, _⟩ := h
  have line := State.notify_onSets (s := s.taken p rest) (f := EventSets.enable (mask.setWidth 15)) (by simpa using attached)
  rw [exec_setEventEnables]
  exact congrArg _ (Cx.command_onNu h (by decide) nofun rfl (by simp [Nu.enableBody, maskOf_halfBytes, line, EventSets.enable]))

/-- R196: READ_COUNTERS reads the thirteen counters. -/
theorem exec_readCounters_of_takes (h : s.takes p 0x63 tag [] rest) :
    exec .readCounters s = .next (s.answered p rest tag .ok s.store.nu.counters.bytes) := by
  rw [exec_readCounters]
  exact congrArg _ (Cx.command_reads h (by decide) nofun rfl (by rw [Nu.countersBody, State.taken_store]))

/-- R197: CLEAR_COUNTERS answers the counters as they stood before it clears them. -/
theorem exec_clearCounters_of_takes (h : s.takes .a 0x64 tag [] rest) :
    exec .clearCounters s =
      .next (({ s with store := s.store.clearCounters } : State).answered .a rest tag .ok s.store.nu.counters.bytes) := by
  rw [exec_clearCounters]
  exact congrArg _ (Cx.command_stores h (by decide) (fun _ => rfl) rfl (by rw [Nu.clearCountersBody, State.taken_store]))

end

/-- Settles O49: the line by its two conditions, each command by what it does with its message. -/
theorem eventSetsAndLines : Obligations.EventSetsAndLines := by
  refine ⟨fun s p => ?line, fun s p tag rest h => ?read, fun s p tag rest mask h => ?clear, fun s p tag rest mask h => ?enable⟩
  case line => rw [State.notify_iff, EventSets.meet_iff]
  case read => exact exec_readEvents_of_takes h
  case clear => exact exec_clearEvents_of_takes h
  case enable => exact exec_setEventEnables_of_takes h

/-- Settles O50: what the two commands do with their message, and the refusal of CLEAR_COUNTERS to Port B (R179). -/
theorem countersAreReadAndCleared : Obligations.CountersAreReadAndCleared := by
  refine ⟨fun s p tag rest h => ?read, fun s tag rest h => ?clear, fun s tag rest h => ?refused⟩
  case read => exact exec_readCounters_of_takes h
  case clear => exact exec_clearCounters_of_takes h
  case refused => rw [exec_clearCounters, Cx.command_notPermitted h (by decide)]

end Sys2Proof.Machine
end

section
/-! PROOF. WALL_RESET as a sequence of steps (R187). -/
namespace Sys2Proof.Machine

-- One declaration after another: as one text the file has more of them than it may have threads.
set_option Elab.async false

variable (p : Port) (payload : List Byte) (s : State)

/-- The steps of WALL_RESET in their order (R187). -/
theorem Cx.wallResetBody_state : (Cx.wallResetBody p payload s).2 =
    Dt.strike (Bl.strike (Cu.cancelPort .b (Cu.cancelPort .a (Cd.withdraw (Trl.clear (Pu.strike s)))))).2 := rfl

/-- The four items that WALL_RESET answers (R187). -/
theorem Cx.wallResetBody_reply : (Cx.wallResetBody p payload s).1 =
    .ok (u16 (s.seats.filter fun e => e.2.kind != .vacant).length ++
      u16 ((Cd.withdraw (Trl.clear (Pu.strike s))).slotsWhere fun r => r.hold.isPort).length ++
      flagByte (Bl.strike (Cu.cancelPort .b (Cu.cancelPort .a (Cd.withdraw (Trl.clear (Pu.strike s)))))).1.1 ++
      u16 (Bl.strike (Cu.cancelPort .b (Cu.cancelPort .a (Cd.withdraw (Trl.clear (Pu.strike s)))))).1.2 ++
      beBytes 4 (Cx.wallResetBody p payload s).2.ftu.frameCount.toNat) := rfl

end Sys2Proof.Machine
end

section
/-! PROOF. The single updates that a read of a slot and its consequences are made of: a relation that holds of each holds of every read, recompute
and condemnation (R148 to R155). -/
namespace Sys2Proof.Machine

-- One declaration after another: as one text the file has more of them than it may have threads.
set_option Elab.async false

/-- A relation between stores that holds of every single update which the word protection and the Drift Tracker make in one slot. -/
structure Store.Closure (cx : Ctx) (slot : Nat) (R : Store → Store → Prop) : Prop where
  refl : ∀ st, R st st
  trans : ∀ {a b c}, R a b → R b c → R a c
  damage : ∀ st (keep : Damage → Bool), R st { st with damage := st.damage.filter keep }
  finding : ∀ st (f : Finding), R st { st with finding := some f }
  count : ∀ st c k, R st (st.count c k)
  suspected : ∀ st, R st (st.addBoth .recordSuspect)
  suspect : ∀ st, R st (st.modify slot fun r => { r with state := .suspect })
  rebuilt : ∀ st, st.doubles slot isStateWord ≠ [] → R st (st.modify slot fun r =>
    { r with state := .suspect, seat := seatOfSlot cx.seats slot, lastSeen := cx.frame })
  named : ∀ st x b, identityOfSlot cx.index slot = some (x, b) →
    R st (st.modify slot fun r => { r with identity := x, batch := b })
  cleared : ∀ st, R st (st.modify slot fun r => { r with theta := none, hours := 0, ceiling := false, regressed := false })
  retarget : ∀ st after bank, R st (Dt.retarget cx after slot bank st)
  zeroed : ∀ st b, (st.get slot).hold = .none → R st (st.put slot ((st.get slot).setBank (st.get slot).pendingIx b))
  marked : ∀ st, (st.get slot).hold ≠ .none → R st (st.put slot { st.get slot with pendingDamaged := true })

/-- The words found uncorrectable: damaged words of the slot, among those read (R150). -/
theorem Store.mem_doubles {slot : Nat} {sel : ArrayWord → Bool} {st : Store} {d : Damage} :
    d ∈ st.doubles slot sel ↔ d ∈ st.damage ∧ d.slot = slot ∧ sel d.word = true ∧ d.uncorrectable = true := by
  simp only [Store.doubles, Store.found, List.mem_filter, Bool.and_eq_true, decide_eq_true_eq, and_assoc]

theorem Store.doubles_mono {slot : Nat} {sel sel' : ArrayWord → Bool} {st : Store} {d : Damage} (hs : ∀ w, sel w = true → sel' w = true)
    (h : d ∈ st.doubles slot sel) : d ∈ st.doubles slot sel' := by
  obtain ⟨h1, h2, h3, h4⟩ := Store.mem_doubles.1 h
  exact Store.mem_doubles.2 ⟨h1, h2, hs _ h3, h4⟩

theorem Store.doubles_of_sel {slot : Nat} {sel sel' : ArrayWord → Bool} {st : Store} {d : Damage} (h : d ∈ st.doubles slot sel)
    (hs : sel' d.word = true) : d ∈ st.doubles slot sel' := by
  obtain ⟨h1, h2, _, h4⟩ := Store.mem_doubles.1 h
  exact Store.mem_doubles.2 ⟨h1, h2, hs, h4⟩

namespace Store.Closure

variable {cx : Ctx} {slot : Nat} {R : Store → Store → Prop} (h : Store.Closure cx slot R)
include h

/-- Work done after other work, only where a condition holds. -/
theorem thenIf {c : Prop} [Decidable c] {a b d : Store} (hb : R a b) (hd : R b d) : R a (if c then d else b) := by
  split
  · exact h.trans hb hd
  · exact hb

theorem mend (st : Store) (sel : ArrayWord → Bool) : R st (st.mend slot sel) := h.damage st _

theorem correct (st : Store) (sel : ArrayWord → Bool) : R st (st.correct slot sel) := by
  simp only [Store.correct]
  split
  · exact h.refl st
  · exact h.trans (h.damage st _) (h.count _ _ _)

theorem foundDouble (st : Store) (rd : Reader) (loc : Location) (n : Nat) : R st (st.foundDouble cx rd slot loc n) :=
  h.trans (h.finding st _) (h.count _ _ _)

theorem rebuildState (st : Store) (hd : st.doubles slot isStateWord ≠ []) : R st (Rt.rebuildState cx slot st) :=
  h.trans (h.rebuilt st hd) (h.mend _ _)

theorem rebuildIdentity (st : Store) : R st (Rt.rebuildIdentity cx slot st) := by
  simp only [Rt.rebuildIdentity]
  split
  · rename_i x b hx
    exact h.trans (h.named st x b hx) (h.mend _ _)
  · exact h.mend st _

theorem clearDrift (st : Store) : R st (Dt.clearDrift slot st) := h.trans (h.cleared st) (h.mend _ _)

theorem recomputeFallback (st : Store) (after : After) : R st (Dt.recomputeFallback cx after slot st) := by
  simp only [Dt.recomputeFallback]
  split
  · exact h.trans (h.correct st _) (h.retarget _ _ _)
  · exact h.trans (h.correct st _) (h.trans (h.foundDouble _ _ _ _) (h.trans (h.clearDrift _) (h.retarget _ _ _)))

theorem writeSuspect (st : Store) : R st (Rt.writeSuspect cx slot st) := by
  simp only [Rt.writeSuspect]
  split
  · exact h.trans (h.correct st _) (h.suspect _)
  · rename_i hd
    exact h.trans (h.correct st _) (h.trans (h.foundDouble _ _ _ _) (h.rebuildState _ (mt List.length_eq_zero_iff.2 hd)))

theorem condemn (st : Store) (after : After) (stateWord identityWord recompute : Bool)
    (hd : stateWord = true → st.doubles slot isStateWord ≠ []) :
    R st (Rt.condemn cx after stateWord identityWord recompute slot st) := by
  have written : R st (if stateWord then Rt.rebuildState cx slot st else Rt.writeSuspect cx slot st) := by
    split
    · exact h.rebuildState st (hd ‹_›)
    · exact h.writeSuspect st
  simp only [Rt.condemn]
  generalize (if stateWord then Rt.rebuildState cx slot st else Rt.writeSuspect cx slot st) = a at written
  exact h.thenIf (h.trans (h.thenIf written (h.rebuildIdentity a)) (h.suspected _)) (h.recomputeFallback _ _)

theorem recomputeFromBank (st : Store) (after : After) : R st (Dt.recomputeFromBank cx after slot st) := by
  simp only [Dt.recomputeFromBank]
  split
  · split
    · exact h.trans (h.correct st _) (h.retarget _ _ _)
    · exact h.trans (h.correct st _) (h.trans (h.foundDouble _ _ _ _) (h.condemn _ _ _ _ _ nofun))
  · exact h.retarget st _ _

theorem reinitialise (st : Store) : R st (Dt.reinitialise cx slot st) := h.trans (h.clearDrift st) (h.recomputeFromBank _ _)

theorem recompute (st : Store) (after : After) : R st (Dt.recompute cx after slot st) := by
  simp only [Dt.recompute]
  split
  · exact h.trans (h.correct st _) (h.recomputeFromBank _ _)
  · exact h.trans (h.correct st _) (h.trans (h.foundDouble _ _ _ _) (h.reinitialise _))

theorem pendingFound (st : Store) (words : List Damage) : R st (Rt.pendingFound slot words st) := by
  simp only [Rt.pendingFound]
  split
  · rename_i hold
    exact h.trans (h.zeroed st _ hold) (h.mend _ _)
  · rename_i hold
    exact h.marked st hold

theorem consequences (st : Store) (rd : Reader) (words : List Damage) (hw : ∀ d ∈ words, d ∈ st.doubles slot fun _ => true) :
    R st (Rt.consequences cx rd slot words st) := by
  simp only [Rt.consequences]
  refine h.thenIf (h.thenIf (h.thenIf (h.foundDouble st rd _ _) (h.condemn _ _ _ _ _ fun hs => ?_)) (h.pendingFound _ _)) (h.reinitialise _)
  obtain ⟨d, hd, hsel⟩ := List.any_eq_true.1 hs
  exact List.ne_nil_of_mem (Store.doubles_of_sel (st := st) (hw d hd) hsel)

/-- So the relation holds of a read, whatever it finds. -/
theorem read (st : Store) (rd : Reader) (sel : ArrayWord → Bool) : R st (Rt.read cx rd slot sel st) := by
  simp only [Rt.read]
  split
  · exact h.refl st
  · split
    · exact h.correct st _
    · split
      · exact h.trans (h.correct st _) (h.consequences _ _ _ fun _ => Store.doubles_mono fun _ _ => rfl)
      · exact h.trans (h.correct st _) (h.trans (h.foundDouble _ _ _ _) (h.mend _ _))

/-- And of an INVALID temperature, a slew and a clamp, where it holds of the change each makes to the record. -/
theorem invalidate (st : Store) (hm : ∀ st, R st (st.modify slot fun r => { r with theta := none })) :
    R st (Dt.invalidate cx slot st) := h.trans (h.read st _ _) (hm _)

theorem slewRecord (st : Store) (step : Nat) (hm : ∀ st, R st (st.modify slot (Record.slewed step))) :
    R st (Dt.slewRecord cx step slot st) := by
  simp only [Dt.slewRecord]
  split
  · exact h.trans (h.correct st _) (hm _)
  · exact h.trans (h.correct st _) (h.trans (h.foundDouble _ _ _ _) (h.reinitialise _))

theorem clampApplied (st : Store) (hm : ∀ st, R st (st.modify slot (Record.clamped cx.limit))) :
    R st (Dt.clampApplied cx slot st) := h.trans (h.read st _ _) (hm _)

end Store.Closure

end Sys2Proof.Machine
end

section
/-! PROOF. What work on the record store keeps: the form of its table, the gains within the limit, and the counters within their bound (R1, R89,
R92, R195). -/
namespace Sys2Proof.Machine

-- One declaration after another: as one text the file has more of them than it may have threads.
set_option Elab.async false

/-! ### Gains within the limit -/

/-- No target gain and no applied gain of a record above a limit (R1). -/
def Record.within (limit : Nat) (r : Record) : Prop := ∀ v ∈ r.target.toList ++ r.applied.toList, v ≤ limit

theorem Record.within_iff {limit : Nat} {r : Record} : r.within limit ↔
    (r.target.r ≤ limit ∧ r.target.g ≤ limit ∧ r.target.b ≤ limit) ∧
      r.applied.r ≤ limit ∧ r.applied.g ≤ limit ∧ r.applied.b ≤ limit := by
  simp [Record.within, Prim.toList, and_assoc]

theorem Record.within_blank (limit : Nat) : Record.blank.within limit := by simp [Record.within_iff, Record.blank]

/-- The targets of a recompute lie within the limit (R89). -/
theorem targetsOf_le (limit : Nat) (b : Bank) (θ : Option Int) (hours : Nat) : ∀ v ∈ (targetsOf limit b θ hours).toList, v ≤ limit := by
  simp [targetsOf, Prim.map, Prim.toList]

/-- A recompute leaves both gains within the limit, whatever it makes of the applied gains (R89, R93). -/
theorem Record.within_retargeted {limit : Nat} {after : After} {bank : Bank} {r : Record}
    (h : after = .slew → r.applied.r ≤ limit ∧ r.applied.g ≤ limit ∧ r.applied.b ≤ limit) :
    (Record.retargeted limit after bank r).within limit := by
  have ht := targetsOf_le limit bank r.theta r.hours
  simp only [Prim.toList, List.mem_cons, List.not_mem_nil, or_false, forall_eq_or_imp, forall_eq] at ht
  cases after
  · exact Record.within_iff.2 ⟨ht, h rfl⟩
  · exact Record.within_iff.2 ⟨ht, ht⟩

/-- A slewed gain stays between the gain and its target (R92). -/
theorem slewGain_le {step applied target limit : Nat} (ha : applied ≤ limit) (ht : target ≤ limit) : slewGain step applied target ≤ limit := by
  simp only [slewGain]
  split
  · omega
  · split <;> omega

theorem Record.within_slewed {limit step : Nat} {r : Record} (h : r.within limit) : (r.slewed step).within limit := by
  obtain ⟨⟨tr, tg, tb⟩, ar, ag, ab⟩ := Record.within_iff.1 h
  exact Record.within_iff.2 ⟨⟨tr, tg, tb⟩, slewGain_le ar tr, slewGain_le ag tg, slewGain_le ab tb⟩

theorem Record.within_of_eq {limit : Nat} {r r' : Record} (ht : r'.target = r.target) (ha : r'.applied = r.applied) (h : r.within limit) :
    r'.within limit := by
  rw [Record.within, ht, ha]; exact h

@[simp] theorem Record.setBank_target (r : Record) (ix : BankIx) (b : Bank) : (r.setBank ix b).target = r.target := by cases ix <;> rfl
@[simp] theorem Record.setBank_applied (r : Record) (ix : BankIx) (b : Bank) : (r.setBank ix b).applied = r.applied := by cases ix <;> rfl

/-! ### Counters -/

/-- Every counter of a Notification Unit within 0..65535 (R195). -/
def Nu.countersBounded (n : Nu) : Prop := ∀ k ∈ n.counters.values, k ≤ 65535

theorem saturate_le (n k : Nat) : saturate n k ≤ 65535 := Nat.min_le_left _ _

theorem Counters.bump_le {c : Counter} {k : Nat} {s : Counters} (h : ∀ n ∈ s.values, n ≤ 65535) : ∀ n ∈ (s.bump c k).values, n ≤ 65535 := by
  simp only [Counters.values, List.mem_cons, List.not_mem_nil, or_false, forall_eq_or_imp, forall_eq] at h ⊢
  cases c <;> simp only [Counters.bump, saturate_le, h, and_self]

theorem Nu.countersBounded_count {c : Counter} {k : Nat} {n : Nu} (h : n.countersBounded) : (n.count c k).countersBounded :=
  Counters.bump_le h

@[simp] theorem Nu.setSets_counters (n : Nu) (p : Port) (e : EventSets) : (n.setSets p e).counters = n.counters := by cases p <;> rfl

@[simp] theorem Nu.add_counters (p : Port) (e : Event) (n : Nu) : (n.add p e).counters = n.counters := by
  simp only [Nu.add]
  split <;> simp

@[simp] theorem Nu.addBoth_counters (e : Event) (n : Nu) : (n.addBoth e).counters = n.counters := (Nu.addBoth_kept e n).2.2.2

@[simp] theorem Nu.onset_counters (e : Event) (b a : Bool) (n : Nu) : (n.onset e b a).counters = n.counters := by
  simp only [Nu.onset]
  split <;> simp

theorem Nu.countersBounded_of_eq {n m : Nu} (h : m.counters = n.counters) (hn : n.countersBounded) : m.countersBounded := by
  rw [Nu.countersBounded, h]; exact hn

/-! ### Work on the store -/

/-- What work on the record store keeps: the form of the table, every record's gains within the limit, the counters within their bound. -/
structure Store.Kept (limit : Nat) (st st' : Store) : Prop where
  wf : Table.wf Record.blank st.records → Table.wf Record.blank st'.records
  gains : Table.wf Record.blank st.records → ∀ n, (st.get n).within limit → (st'.get n).within limit
  counters : st.nu.countersBounded → st'.nu.countersBounded

namespace Store.Kept

variable {limit slot : Nat} {st st' : Store}

theorem refl (limit : Nat) (st : Store) : st.Kept limit st := ⟨id, fun _ _ => id, id⟩

theorem trans {st'' : Store} (h : st.Kept limit st') (k : st'.Kept limit st'') : st.Kept limit st'' :=
  ⟨fun w => k.wf (h.wf w), fun w n hn => k.gains (h.wf w) n (h.gains w n hn), fun c => k.counters (h.counters c)⟩

theorem of_records (hr : st'.records = st.records) (hc : st.nu.countersBounded → st'.nu.countersBounded) : st.Kept limit st' :=
  ⟨fun w => hr ▸ w, fun _ n hn => by rw [Store.get, hr]; exact hn, hc⟩

theorem put {r : Record} (h : (st.get slot).within limit → r.within limit) : st.Kept limit (st.put slot r) := by
  refine ⟨fun w => Table.wf_set w, fun w n hn => ?_, id⟩
  by_cases hk : n = slot
  · subst hk; rw [Store.get_put_same w]; exact h hn
  · rw [Store.get_put_ne hk]; exact hn

theorem modify {f : Record → Record} (h : ∀ r : Record, r.within limit → (f r).within limit) : st.Kept limit (st.modify slot f) := put (h _)

theorem count (c : Counter) (k : Nat) : st.Kept limit (st.count c k) := of_records rfl Nu.countersBounded_count

theorem addBoth (e : Event) : st.Kept limit (st.addBoth e) := of_records rfl (Nu.countersBounded_of_eq (Nu.addBoth_counters e _))

theorem mend (sel : ArrayWord → Bool) : st.Kept limit (st.mend slot sel) := of_records rfl id

theorem retarget {cx : Ctx} (after : After) (bank : Bank) : st.Kept cx.limit (Dt.retarget cx after slot bank st) := by
  have written : st.Kept cx.limit (st.put slot (Record.retargeted cx.limit after bank (st.get slot))) :=
    put fun h => Record.within_retargeted fun _ => (Record.within_iff.1 h).2
  simp only [Dt.retarget]
  split
  · exact written.trans (addBoth _)
  · exact written

/-- So reads, recomputes and condemnations keep all three. -/
theorem closure (cx : Ctx) (slot : Nat) : Store.Closure cx slot (Store.Kept cx.limit) where
  refl := refl _
  trans := trans
  damage _ _ := of_records rfl id
  finding _ _ := of_records rfl id
  count _ := count
  suspected _ := addBoth _
  suspect _ := modify fun _ => Record.within_of_eq rfl rfl
  rebuilt _ _ := modify fun _ => Record.within_of_eq rfl rfl
  named _ _ _ _ := modify fun _ => Record.within_of_eq rfl rfl
  cleared _ := modify fun _ => Record.within_of_eq rfl rfl
  retarget _ := retarget
  zeroed _ _ _ := put (Record.within_of_eq (by simp) (by simp))
  marked _ _ := put (Record.within_of_eq rfl rfl)

theorem fold {α : Type} {f : Store → α → Store} (h : ∀ acc x, Store.Kept limit acc (f acc x)) (l : List α) :
    st.Kept limit (l.foldl f st) := foldl_keep (P := st.Kept limit) l (fun acc x _ ha => ha.trans (h acc x)) (refl _ _)

theorem eachInUse {f : Nat → Store → Store} (h : ∀ n acc, Store.Kept limit acc (f n acc)) : st.Kept limit (st.eachInUse f) :=
  fold (fun acc n => h n acc) _

end Store.Kept

end Sys2Proof.Machine
end

section
/-! PROOF. What work on the state keeps: every operation but those of the Frame Timing Unit leaves the parameters, the timing flags and the answers
queued, and keeps the form of the tables, the gains within the limit and the bounds. -/
namespace Sys2Proof.Machine

-- One declaration after another: as one text the file has more of them than it may have threads.
set_option Elab.async false

/-- The flags of the Frame Timing Unit that must agree with one another (R133). -/
def Ftu.flags (f : Ftu) : Source × Source × Bool × Bool × Monitor × Option Nat :=
  (f.current, f.requested, f.switchPending, f.expiryHeld, f.monitor, f.lastPulse)

theorem Ftu.sound_of_flags {f g : Ftu} (h : g.flags = f.flags) (hf : f.sound) : g.sound := by
  simp only [Ftu.flags, Prod.mk.injEq] at h
  obtain ⟨h1, h2, h3, h4, h5, h6⟩ := h
  simpa only [Ftu.sound, h1, h2, h3, h4, h5, h6] using hf

/-- What every operation of the part keeps, the Frame Timing Unit's among them. -/
structure State.Kept (s t : State) : Prop where
  params : t.params = s.params
  answers : ∀ p, (t.port p).answers = (s.port p).answers
  canonical : s.canonical → t.canonical
  gains : s.canonical → s.withinLimit → t.withinLimit
  bounded : s.bounded → t.bounded
  counters : s.countersBounded → t.countersBounded
  dither : s.params.inRange → s.ditherSound → t.ditherSound

/-- What every operation of another block keeps: the timing flags too. -/
structure State.Work (s t : State) : Prop extends State.Kept s t where
  flags : t.ftu.flags = s.ftu.flags

variable {s t u : State}

theorem State.Kept.refl (s : State) : s.Kept s := ⟨rfl, fun _ => rfl, id, fun _ => id, id, id, fun _ => id⟩

theorem State.Kept.trans (h : s.Kept t) (k : t.Kept u) : s.Kept u :=
  ⟨k.params.trans h.params, fun p => (k.answers p).trans (h.answers p), fun c => k.canonical (h.canonical c),
    fun c g => k.gains (h.canonical c) (h.gains c g), fun b => k.bounded (h.bounded b), fun c => k.counters (h.counters c),
    fun r d => k.dither (h.params ▸ r) (h.dither r d)⟩

theorem State.Work.refl (s : State) : s.Work s := ⟨.refl s, rfl⟩

theorem State.Work.trans (h : s.Work t) (k : t.Work u) : s.Work u := ⟨h.toKept.trans k.toKept, k.flags.trans h.flags⟩

theorem State.Work.thenIf {c : Prop} [Decidable c] (h : s.Work t) (k : t.Work u) : s.Work (if c then u else t) := by
  split
  · exact h.trans k
  · exact h

theorem State.Work.ite {c : Prop} [Decidable c] (h : c → s.Work t) (k : ¬ c → s.Work u) : s.Work (if c then t else u) := by
  split
  · exact h ‹_›
  · exact k ‹_›

theorem State.Work.fold {α : Type} {f : State → α → State} {l : List α} (h : ∀ acc, ∀ x ∈ l, State.Work acc (f acc x)) :
    s.Work (l.foldl f s) := foldl_keep (P := s.Work) l (fun acc x hx ha => ha.trans (h acc x hx)) (.refl _)

/-- Two ports whose answers agree and whose lists stay within their bounds where they were so. -/
structure PortState.Kept (q q' : PortState) : Prop where
  answers : q'.answers = q.answers
  bounded : q.bounded → q'.bounded

theorem PortState.Kept.refl (q : PortState) : q.Kept q := ⟨rfl, id⟩

/-- The parts of the state that the invariants look at, each with what is asked of it; a part that is left alone asks nothing. -/
theorem State.Work.of {s t : State}
    (params : t.params = s.params := by exact rfl)
    (flags : t.ftu.flags = s.ftu.flags := by exact rfl)
    (store : s.store.Kept s.params.headroomLimit t.store := by exact .refl _ _)
    (index : Table.wf none s.index → Table.wf none t.index := by exact id)
    (batches : Table.wf none s.batches → Table.wf none t.batches := by exact id)
    (seats : Table.wf Seat.vacant s.seats → Table.wf Seat.vacant t.seats := by exact id)
    (lastSeq : Table.wf 255#8 s.trl.lastSeq → Table.wf 255#8 t.trl.lastSeq := by exact id)
    (queue : s.trl.queue.length ≤ 64 → t.trl.queue.length ≤ 64 := by exact id)
    (snapshot : Table.wf SnapEntry.dark s.cd.snapshot → Table.wf SnapEntry.dark t.cd.snapshot := by exact id)
    (running : Table.wf 0 s.cd.running → Table.wf 0 t.cd.running := by exact id)
    (readable : Table.wf 0 s.cd.running → Table.wf 0 s.cd.readable → Table.wf 0 t.cd.readable := by exact fun _ => id)
    (portA : s.portA.Kept t.portA := by exact .refl _)
    (portB : s.portB.Kept t.portB := by exact .refl _)
    (dither : s.params.inRange → s.ditherSound → t.ditherSound := by exact fun _ => id) : s.Work t where
  params := params
  flags := flags
  answers p := by
    cases p
    · exact portA.answers
    · exact portB.answers
  canonical := fun ⟨c1, c2, c3, c4, c5, c6, c7, c8⟩ =>
    ⟨store.wf c1, index c2, batches c3, seats c4, lastSeq c5, snapshot c6, running c7, readable c7 c8⟩
  gains := fun c g n => by rw [params]; exact store.gains c.1 n (g n)
  bounded := fun ⟨b1, b2, b3⟩ => ⟨portA.bounded b1, portB.bounded b2, queue b3⟩
  counters := store.counters
  dither := dither

/-- Work on the store alone. -/
theorem State.Work.onStore {f : Ctx → Store → Store} (h : s.store.Kept s.params.headroomLimit (f s.ctx s.store)) : s.Work (s.onStore f) :=
  .of (store := h)

theorem State.Work.onNu {f : Nu → Nu} (h : s.store.nu.countersBounded → (f s.store.nu).countersBounded) : s.Work (s.onNu f) :=
  .of (store := .of_records rfl h)

theorem State.Work.count (c : Counter) : s.Work (s.count c) := .onNu Nu.countersBounded_count

theorem State.Work.addBoth (e : Event) : s.Work (s.addBoth e) := .onNu (Nu.countersBounded_of_eq (by simp))

theorem State.Work.addEvent (p : Port) (e : Event) : s.Work (s.addEvent p e) := .onNu (Nu.countersBounded_of_eq (by simp))

theorem State.Work.poolOnset (before : Bool) : s.Work (s.poolOnset before) := .onNu (Nu.countersBounded_of_eq (by simp))

theorem State.Work.refOnset (before : Bool) : s.Work (s.refOnset before) := .onNu (Nu.countersBounded_of_eq (by simp))

theorem State.Work.read (rd : Reader) (slot : Nat) (sel : ArrayWord → Bool) : s.Work (s.read rd slot sel) :=
  .onStore ((Store.Kept.closure s.ctx slot).read _ _ _)

/-- A change of a record that does not raise its gains above the limit. -/
theorem State.Work.modify {slot : Nat} {f : Record → Record}
    (h : (s.record slot).within s.params.headroomLimit → (f (s.record slot)).within s.params.headroomLimit) : s.Work (s.modify slot f) :=
  .of (store := .put h)

/-- A change of a record that leaves its gains alone. -/
theorem State.Work.modifyOf {slot : Nat} {f : Record → Record} (ht : (f (s.record slot)).target = (s.record slot).target := by exact rfl)
    (ha : (f (s.record slot)).applied = (s.record slot).applied := by exact rfl) : s.Work (s.modify slot f) :=
  .modify (Record.within_of_eq ht ha)

theorem State.Work.setSeat (n : Nat) (e : Seat) : s.Work (s.setSeat n e) := .of (seats := Table.wf_set)

theorem State.Work.writeStateWord (rd : Reader) (slot : Nat) {f : Record → Record} (ht : ∀ r, (f r).target = r.target := by exact fun _ => rfl)
    (ha : ∀ r, (f r).applied = r.applied := by exact fun _ => rfl) : s.Work (s.writeStateWord rd slot f) :=
  .trans (.read rd slot _) (.modifyOf (ht _) (ha _))

theorem State.Work.invalidate (slot : Nat) : s.Work (s.invalidate slot) :=
  .onStore ((Store.Kept.closure s.ctx slot).invalidate _ fun _ => .modify fun _ => Record.within_of_eq rfl rfl)

theorem State.Work.recompute (after : After) (slot : Nat) : s.Work (s.onStore fun cx st => Dt.recompute cx after slot st) :=
  .onStore ((Store.Kept.closure s.ctx slot).recompute _ _)

theorem State.Work.onPort {p : Port} {f : PortState → PortState} (h : (s.port p).Kept (f (s.port p))) : s.Work (s.onPort p f) := by
  cases p
  · exact .of (portA := h)
  · exact .of (portB := h)

/-- A port whose commit list does not grow, and whose queues stay. -/
theorem PortState.Kept.lists {q q' : PortState} (hl : q'.commitList.length ≤ q.commitList.length := by exact le_refl _)
    (hm : q'.messages = q.messages := by exact rfl) (ha : q'.answers = q.answers := by exact rfl) : q.Kept q' :=
  ⟨ha, fun ⟨b1, b2, b3⟩ => ⟨hm ▸ b1, ha ▸ b2, hl.trans b3⟩⟩

end Sys2Proof.Machine
end

section
/-! PROOF. The operations of the blocks, one after another: each is work that keeps what `State.Work` says. -/
namespace Sys2Proof.Machine

-- One declaration after another: as one text the file has more of them than it may have threads.
set_option Elab.async false

variable {s : State} {slot : Nat}

/-! ### The Record Table and the Drift Tracker -/

/-- The fields of a record as a creation writes them, before its first recompute (R3). -/
def Record.created (identity batch : Nat) (frame : FrameCount) (byLoad : Bool) : Record :=
  { Record.blank with state := .new, identity := identity, batch := batch, lastSeen := frame, createdByLoad := byLoad }

/-- A creation up to its recompute: the record and its index entry written (R3). -/
def Rt.enter (slot identity batch : Nat) (byLoad : Bool) (s : State) : State := { s with
  store := (s.store.put slot (Record.created identity batch s.ftu.frameCount byLoad)).mend slot fun _ => true
  index := Table.set none identity (some ⟨slot, batch⟩) s.index }

theorem Rt.create_eq (slot identity batch : Nat) (byLoad : Bool) (s : State) :
    Rt.create slot identity batch byLoad s = (Rt.enter slot identity batch byLoad s).onStore fun cx st =>
      Dt.retarget cx .set slot (cx.fallbackBank (Record.created identity batch s.ftu.frameCount byLoad)) st := rfl

theorem Rt.create_work (identity batch : Nat) (byLoad : Bool) : s.Work (Rt.create slot identity batch byLoad s) := by
  rw [Rt.create_eq]
  have entered : s.Work (Rt.enter slot identity batch byLoad s) :=
    .of (store := .trans
      (.put (slot := slot) (r := Record.created identity batch s.ftu.frameCount byLoad) fun _ => Record.within_blank _)
      (.mend (slot := slot) fun _ => true)) (index := Table.wf_set)
  exact entered.trans (.onStore (.retarget (cx := (Rt.enter slot identity batch byLoad s).ctx) _ _))

theorem Rt.retire_work : s.Work (Rt.retire slot s) :=
  .of (store := .trans (.put (slot := slot) (r := Record.blank) fun _ => Record.within_blank _) (.mend (slot := slot) fun _ => true))
    (index := Table.wf_set)

theorem Rt.retireEvaluated_work : s.Work (Rt.retireEvaluated slot s) := .trans Rt.retire_work (.poolOnset _)

theorem Rt.allocate_work : s.Work (Rt.allocate s).2 := by
  simp only [Rt.allocate]
  split
  · exact .of
  · split
    · split
      · exact .refl s
      · rename_i victim _
        split
        · exact .refl s
        · exact .trans (t := (Rt.retire victim s).count .reclaims) (.trans Rt.retire_work (.count _)) .of
    · exact .refl s

theorem Rt.allocateCreate_work (identity batch : Nat) (byLoad : Bool) : s.Work (Rt.allocateCreate identity batch byLoad s).2 := by
  have h := Rt.allocate_work (s := s)
  simp only [Rt.allocateCreate]
  split
  · exact .refl s
  · rename_i heq
    rw [heq] at h
    exact .trans h (.trans (Rt.create_work _ _ _) (.poolOnset _))

theorem Dt.slew_work : s.Work (Dt.slew s) :=
  .onStore (.eachInUse fun n _ => (Store.Kept.closure s.ctx n).slewRecord _ _ fun _ => .modify fun _ => Record.within_slewed)

theorem Dt.recomputeWhere_work (test : Record → Bool) : s.Work (Dt.recomputeWhere test s) :=
  .onStore (.eachInUse fun n acc => by
    split
    · exact (Store.Kept.closure s.ctx n).recompute _ _
    · exact .refl _ _)

theorem Dt.strike_work : s.Work (Dt.strike s) :=
  .onStore (.eachInUse fun n _ => .trans
    ((Store.Kept.closure s.ctx n).invalidate _ fun _ => .modify fun _ => Record.within_of_eq rfl rfl)
    ((Store.Kept.closure s.ctx n).recompute _ _))

theorem Dt.countOffer_work : s.Work (Dt.countOffer s) := by
  simp only [Dt.countOffer]
  split
  · exact .refl s
  · split
    · exact .trans .of (.addBoth _)
    · exact .of

theorem Dt.offer_work (temperature : Option Int) (hours : Nat) (counts : Bool) : s.Work (Dt.offer slot temperature hours counts s) := by
  have taken : s.Work ((s.read .dt slot isDriftWord).modify slot fun _ =>
      ((s.read .dt slot isDriftWord).record slot).offered temperature hours) := .trans (.read _ _ _) .modifyOf
  simp only [Dt.offer]
  generalize (s.read .dt slot isDriftWord).modify slot _ = a at taken
  exact .thenIf (.thenIf taken (.count _)) (.ite (fun _ => .trans (.recompute _ _) Dt.countOffer_work) fun _ => .recompute _ _)

/-! ### The Presence Unit -/

theorem Pu.makeAbsent_work : s.Work (Pu.makeAbsent slot s) := .trans (.writeStateWord _ _) (.invalidate _)

theorem Pu.displace_work {seat : Nat} (keep : Option Nat) : s.Work (Pu.displace seat keep s) := by
  simp only [Pu.displace]
  split
  · exact .ite (fun _ => .refl s) fun _ => Pu.makeAbsent_work
  · exact .refl s

theorem Pu.seatArrival_work {seat : Nat} : s.Work (Pu.seatArrival seat slot s) :=
  .trans (Pu.displace_work _) (.trans (.writeStateWord _ _) (.setSeat _ _))

theorem Pu.unrecorded_work {seat : Nat} (identity batch : Nat) (c : Counter) (e : Event) : s.Work (Pu.unrecorded seat identity batch c e s) :=
  have placed := (Pu.displace_work (s := s) (seat := seat) none).trans (.setSeat seat _)
  .ite (fun _ => placed) fun _ => placed.trans (.trans (.count c) (.addBoth e))

theorem Pu.leave_work {seat : Nat} : s.Work (Pu.leave slot seat s) := .trans (.setSeat _ _) (.invalidate _)

theorem Pu.arrive_work {seat : Nat} (r : Report) (temperature : Option Int) (counts : Bool) : s.Work (Pu.arrive seat r temperature counts s) := by
  simp only [Pu.arrive]
  split
  · split
    · exact .trans Pu.seatArrival_work (Dt.offer_work _ _ _)
    · split
      · exact .trans Pu.seatArrival_work (Dt.offer_work _ _ _)
      · exact .ite (fun _ => Pu.unrecorded_work _ _ _ _)
          fun _ => .trans Pu.leave_work (.trans Pu.seatArrival_work (Dt.offer_work _ _ _))
  · split
    · have h := Rt.allocateCreate_work (s := s) r.identity r.batch false
      split
      · rename_i heq
        rw [heq] at h
        exact .trans h (.trans Pu.seatArrival_work (Dt.offer_work _ _ _))
      · exact Pu.unrecorded_work _ _ _ _
    · exact Pu.unrecorded_work _ _ _ _

theorem Pu.confirm_work {seat : Nat} (temperature : Option Int) (hours : Nat) : s.Work (Pu.confirm seat slot temperature hours s) :=
  .trans (.setSeat _ _) (.trans (.writeStateWord _ _) (Dt.offer_work _ _ _))

theorem Pu.empty_work {seat : Nat} : s.Work (Pu.empty seat s) := .trans (Pu.displace_work _) (.setSeat _ _)

/-- Every seat's entry changed, and whether the check is due (R31, R42). -/
theorem Pu.mapSeats_work (f : Nat → Seat → Seat) (due : Bool) :
    s.Work { s with seats := Table.mapEntries Seat.vacant f s.seats, seatCheckDue := due } :=
  .of (seats := Table.wf_mapEntries (f := f))

theorem Pu.gap_work (distPort : Nat) : s.Work (Pu.gap distPort s) := Pu.mapSeats_work _ _

theorem Pu.handle_work (r : Report) : s.Work (Pu.handle r s) := by
  have gapped : s.Work (if r.gap then Pu.gap r.distPort s else s) := .ite (fun _ => Pu.gap_work _) fun _ => .refl s
  simp only [Pu.handle]
  generalize (if r.gap then Pu.gap r.distPort s else s) = a at gapped
  refine gapped.trans ?_
  split
  · exact Pu.arrive_work _ _ _
  · exact Pu.empty_work
  · split
    · exact .ite (fun _ => Pu.confirm_work _ _) fun _ => Pu.arrive_work _ _ _
    · exact Pu.arrive_work _ _ _

theorem Pu.takeHead_work (isKind : ReportKind → Bool) : s.Work (Pu.takeHead isKind s) := by
  simp only [Pu.takeHead]
  split
  · exact .refl s
  · rename_i r rest hq
    refine .ite (fun _ => .trans (.of (queue := fun h => ?_)) (Pu.handle_work _)) fun _ => .refl s
    rw [hq, List.length_cons] at h
    exact (Nat.le_succ _).trans h

theorem Pu.age_work : s.Work (Pu.age s) := Pu.mapSeats_work _ _

theorem Pu.staleCheck_work : s.Work (Pu.staleCheck s) :=
  .ite (fun _ => .thenIf (Pu.mapSeats_work _ _) (.addBoth _)) fun _ => .refl s

theorem Pu.strike_work : s.Work (Pu.strike s) := .fold fun _ _ _ => Pu.empty_work

/-! ### The Commit Unit -/

theorem Cu.discard_work : s.Work (Cu.discard slot s) :=
  .trans (t := Cu.unlist slot s) (.of (portA := .lists (List.length_filter_le ..)) (portB := .lists (List.length_filter_le ..))) .modifyOf

theorem Cu.discardAll_work (slots : List Nat) : s.Work (Cu.discardAll slots s) := .fold fun _ _ _ => Cu.discard_work

theorem Cu.expirePort_work {p : Port} : s.Work (Cu.expirePort p s) := by
  simp only [Cu.expirePort]
  split
  · exact .refl s
  · exact .trans (Cu.discardAll_work _) (.trans (.onPort .lists) (.addEvent _ _))

theorem Cu.expire_work : s.Work (Cu.expire s) := .trans Cu.expirePort_work Cu.expirePort_work

theorem Record.ticked_within {limit : Nat} {r : Record} (h : r.within limit) : r.ticked.within limit := by
  simp only [Record.ticked]
  split <;> exact h

@[simp] theorem Record.ticked_blank : Record.blank.ticked = Record.blank := rfl

/-- The ageing of the holds reads at each slot (R106). -/
theorem Cu.ageHolds_record (w : Table.wf Record.blank s.store.records) (n : Nat) : (Cu.ageHolds s).record n = (s.record n).ticked :=
  Table.get_mapEntries (f := fun _ r => Record.ticked r) rfl w

theorem Cu.ageHolds_work : s.Work (Cu.ageHolds s) :=
  .of (store := ⟨Table.wf_mapEntries (f := fun _ => Record.ticked), fun w n h => by
    rw [show (Cu.ageHolds s).store.get n = (s.store.get n).ticked from Cu.ageHolds_record w n]
    exact Record.ticked_within h, id⟩)

theorem Cu.commit_work : s.Work (Cu.commit slot s) :=
  .trans (.modifyOf (slot := slot)) (.trans (.writeStateWord _ _) (.trans (.recompute _ _) Cu.discard_work))

theorem Cu.applySet_work (slots : List Nat) : s.Work (Cu.applySet slots s).2 :=
  .fold fun _ _ _ => .ite (fun _ => Cu.discard_work) fun _ => Cu.commit_work

theorem Cu.applyPort_work {p : Port} : s.Work (Cu.applyPort p s) :=
  .ite (fun _ => .refl s) fun _ => .trans (Cu.applySet_work _) (.trans (.onPort .lists) (.addEvent _ _))

theorem State.fillPending_work (bank : Bank) : s.Work (s.fillPending slot bank) :=
  .of (store := .trans (.modify fun _ => Record.within_of_eq (by simp) (by simp)) (.mend _))

theorem State.writeGroup_work (g : Group) (bytes : List Byte) : s.Work (s.writeGroup slot g bytes) :=
  .of (store := .trans (.modify fun _ => Record.within_of_eq (by simp) (by simp)) (.mend _))

theorem Cu.readPendingBank_work : s.Work (Cu.readPendingBank slot s).2 := .read _ _ _

theorem Cu.schedule_work {p : Port} : s.Work (Cu.schedule p slot s) := .trans .modifyOf (.onPort .lists)

theorem Cu.reopen_work : s.Work (Cu.reopen slot s) := .modifyOf

theorem Cu.cancelPort_work {p : Port} : s.Work (Cu.cancelPort p s) :=
  .trans (Cu.discardAll_work _) (.onPort (.lists (Nat.zero_le _)))

/-! ### The Bulk Load Engine -/

/-- Records that the load keeps when it ends: created by load cleared (R165, R167). -/
def Bl.settle (slots : List Nat) (s : State) : State :=
  slots.foldl (fun acc n => acc.modify n fun r => { r with createdByLoad := false }) s

theorem Bl.settle_work (slots : List Nat) : s.Work (Bl.settle slots s) := .fold fun _ _ _ => .modifyOf

/-- A load ended by an abandonment, and LOAD_ABORTED added to its owner (R167). -/
def Bl.close (reason : Reason) (count : Nat) (s : State) : State :=
  let ended := { s with load := { s.load with
    state := .aborted, count := count, list := [], committed := 0, failed := 0, firstFailed := none, reason := reason, scheduled := [] } }
  match s.load.owner with
  | some p => ended.addEvent p .loadAborted
  | none => ended

theorem Bl.close_work (reason : Reason) (count : Nat) : s.Work (Bl.close reason count s) := by
  simp only [Bl.close]
  split
  · exact .trans .of (.addEvent _ _)
  · exact .of

/-- The steps of an abandonment: every claim of the load ended, the created records that are ABSENT retired, the others kept, and the load closed
(R167). -/
theorem Bl.abort_eq (reason : Reason) (s : State) : (Bl.abort reason s).2 =
    let s1 := Cu.discardAll s.load.list s
    let made := s.load.list.filter fun n => (s1.record n).loadMade
    Bl.close reason s.load.list.length (Bl.settle (made.filter fun n => !(s1.record n).seat.isNone)
      ((made.filter fun n => (s1.record n).seat.isNone).foldl (fun acc n => Rt.retireEvaluated n acc) s1)) := rfl

theorem Bl.abort_work (reason : Reason) : s.Work (Bl.abort reason s).2 := by
  rw [Bl.abort_eq]
  exact .trans (Cu.discardAll_work _) (.trans (.fold fun _ _ _ => Rt.retireEvaluated_work) (.trans (Bl.settle_work _) (Bl.close_work _ _)))

/-- A load ended by its commits, and LOAD_DONE added to its owner (R165). -/
def Bl.finish (r : SetResult) (count : Nat) (s : State) : State :=
  { s with load := { s.load with
    state := .done, committed := r.committed, failed := r.failed, firstFailed := r.firstFailed, count := count, list := [], scheduled := [] } }

/-- The steps of a load's completion: its set applied, its records kept, and the load ended (R165). -/
theorem Bl.complete_eq (h : s.load.state = .committing) : Bl.complete s =
    let t := Bl.finish (Cu.applySet s.load.scheduled s).1 s.load.list.length (Bl.settle s.load.list (Cu.applySet s.load.scheduled s).2)
    s.load.owner.elim t fun p => t.addEvent p .loadDone := by
  rw [Bl.complete, if_pos h]
  cases s.load.owner <;> rfl

theorem Bl.complete_idle (h : s.load.state ≠ .committing) : Bl.complete s = s := if_neg h

theorem Bl.complete_work : s.Work (Bl.complete s) := by
  by_cases h : s.load.state = .committing
  · have ended : s.Work (Bl.finish (Cu.applySet s.load.scheduled s).1 s.load.list.length
        (Bl.settle s.load.list (Cu.applySet s.load.scheduled s).2)) :=
      .trans (Cu.applySet_work s.load.scheduled) (.trans (Bl.settle_work _) .of)
    rw [Bl.complete_eq h]
    cases s.load.owner with
    | none => exact ended
    | some p => exact ended.trans (.addEvent _ _)
  · rw [Bl.complete_idle h]; exact .refl s

theorem Bl.age_work : s.Work (Bl.age s) := .ite (fun _ => .of) fun _ => .refl s

theorem Bl.timeout_work : s.Work (Bl.timeout s) := .ite (fun _ => Bl.abort_work _) fun _ => .refl s

theorem Bl.completing_work : s.Work (Bl.completing s) := 
  .trans (.fold (l := s.load.list) (f := fun acc n => acc.modify n fun r => { r with condition := .scheduled }) fun _ _ _ => .modifyOf) .of

theorem Bl.accept_work (created : Bool) (retired : Nat) (payload : List Byte) : s.Work (Bl.accept slot created retired payload s).2 := by
  have taken := (State.fillPending_work (s := s) (slot := slot) (bankOf (imageBank payload))).trans
    (.modifyOf (slot := slot) (f := fun r => { r with
      hold := .load, condition := .frozen, pendingDamaged := false, expectedCrc := crc16 (imageBank payload) }))
  simp only [Bl.accept]
  generalize (s.fillPending slot (bankOf (imageBank payload))).modify slot _ = a at taken
  split
  · exact taken.trans (.trans .of Bl.completing_work)
  · exact taken.trans .of

theorem Bl.strike_work : s.Work (Bl.strike s).2 := by
  simp only [Bl.strike]
  split
  · exact Bl.abort_work _
  · exact .refl s

theorem Bl.detached_work : s.Work (Bl.detached s) := .ite (fun _ => Bl.abort_work _) fun _ => .refl s

/-! ### The Correction Datapath -/

/-- A step of the dither register never leads to zero (R78). -/
theorem ditherStep_ne_zero {r : BitVec 15} (h : r ≠ 0) : ditherStep r ≠ 0 := by
  intro h0
  apply h
  have low : (ditherStep r).getLsbD 0 = false := by rw [h0]; rfl
  have high : ∀ i, i < 14 → r.getLsbD i = false := fun i hi => by
    have : (ditherStep r).getLsbD (i + 1) = false := by rw [h0]; simp
    simp [ditherStep, BitVec.getLsbD_shiftLeft, show i + 1 < 15 by omega, -BitVec.getLsbD_eq_getElem] at this
    exact this
  have top : r.getLsbD 14 = false := by
    have h13 := high 13 (by omega)
    rw [ditherStep, h13] at low
    simpa using low
  refine BitVec.eq_of_getLsbD_eq fun i hi => ?_
  by_cases h14 : i = 14
  · subst h14; simpa using top
  · simpa using high i (by omega)

/-- A seed that fits 15 bits is never loaded as zero (R79). -/
theorem seedValue_ne_zero {v : Nat} (h : v ≤ 0x7FFF) : seedValue v ≠ 0 := by
  simp only [seedValue]
  split
  · decide
  · intro h0
    have := congrArg BitVec.toNat h0
    simp at this
    omega

theorem Cd.pixelOf_work (b : Burst) (start : Bool) (pix : Pixel) : s.Work (Cd.pixelOf b start pix s) := by
  refine .thenIf (.of (running := fun h => ?_) (dither := fun _ ⟨d1, d2⟩ => ⟨ditherStep_ne_zero d1, d2⟩)) (.count _)
  split
  · exact h
  · exact Table.wf_set h

theorem Cd.startBurst_work (tag : BitVec 11) (pix : Pixel) : s.Work (Cd.startBurst tag pix s) := by
  have loaded : s.Work { s with cd := { s.cd with dither := s.cd.seedLoad.elim s.cd.dither seedValue, seedLoad := none } } :=
    .of (dither := fun _ ⟨d1, d2⟩ => ⟨by
      cases hl : s.cd.seedLoad with
      | none => simpa [hl] using d1
      | some v => simpa [hl] using seedValue_ne_zero (d2 v hl), nofun⟩)
  exact .trans (.thenIf loaded (.count _)) (Cd.pixelOf_work _ _ _)

theorem Cd.laterPixel_work (pix : Pixel) : s.Work (Cd.laterPixel pix s) := by
  simp only [Cd.laterPixel]
  split
  · exact Cd.pixelOf_work _ _ _
  · exact .of (dither := fun _ ⟨d1, d2⟩ => ⟨ditherStep_ne_zero d1, d2⟩)

theorem Cd.readRecord_work : s.Work (Cd.readRecord slot s) := .trans (.thenIf (.read _ _ _) (.read _ _ _)) (.read _ _ _)

theorem Cd.latchSeat_work (e : Seat) : s.Work (Cd.latchSeat e s).2 := by
  simp only [Cd.latchSeat]
  split
  · exact Cd.readRecord_work
  · exact .refl s

theorem Cd.latchSeats_work (seats : Table Seat) (acc : Table SnapEntry) (h : Table.wf SnapEntry.dark acc) :
    s.Work (Cd.latchSeats seats acc s).2 ∧ Table.wf SnapEntry.dark (Cd.latchSeats seats acc s).1 := by
  induction seats generalizing acc s with
  | nil => exact ⟨.refl s, h⟩
  | cons e l ih =>
    obtain ⟨k, e⟩ := e
    obtain ⟨h1, h2⟩ := ih (s := (Cd.latchSeat e s).2) _ (Table.wf_set (n := k) (v := (Cd.latchSeat e s).1) h)
    exact ⟨(Cd.latchSeat_work e).trans h1, h2⟩

theorem Cd.latch_work : s.Work (Cd.latch s) := by
  obtain ⟨hw, hs⟩ := Cd.latchSeats_work (s := s) s.seats [] Table.wf_nil
  simp only [Cd.latch]
  refine hw.trans (.of (snapshot := fun _ => hs) (running := fun _ => Table.wf_nil) (readable := fun h _ => h)
    (dither := fun hr ⟨d1, d2⟩ => ⟨d1, fun v => ?_⟩))
  dsimp only
  split
  · rintro ⟨⟩; exact (hr .ditherSeed).2
  · exact d2 v

theorem Cd.withdraw_work : s.Work (Cd.withdraw s) := .of

/-! ### The Tile Return Link, the Scrubber and the boundary -/

theorem Trl.join_work (r : Report) (h : s.trl.queue.length < 64) : s.Work (Trl.join r s) :=
  .thenIf (.of (lastSeq := Table.wf_set) (queue := fun _ => by simpa using h)) (.trans (.count _) (.addBoth _))

theorem Trl.arrive_work (frame : List Byte × Bool) : s.Work (Trl.arrive frame s) := by
  simp only [Trl.arrive]
  split
  · exact .count _
  · exact .ite (fun h => Trl.join_work _ h) fun _ => .trans (.count _) (.addBoth _)

theorem Trl.receive_work (samples : List Bool) : s.Work (Trl.receive samples s) :=
  .trans .of (.fold fun _ _ _ => Trl.arrive_work _)

theorem Trl.clear_work : s.Work (Trl.clear s) := .of (lastSeq := fun _ => Table.wf_nil) (queue := fun _ => Nat.zero_le _)

theorem Sc.scrubOne_work : s.Work (Sc.scrubOne s) := .trans (.read _ _ _) .of

theorem Sc.scrub_work : s.Work (Sc.scrub s) := by
  rw [Sc.scrub]
  induction s.params.scrubRate with
  | zero => exact .refl s
  | succ k ih => rw [Function.iterate_succ_apply']; exact ih.trans Sc.scrubOne_work

theorem Stage.commitWork_work : s.Work (Stage.commitWork s) :=
  .trans Cu.applyPort_work (.trans Cu.applyPort_work (.trans Bl.complete_work
    (.trans Cu.ageHolds_work (.trans Cu.expire_work (.trans Bl.age_work Bl.timeout_work)))))

theorem Stage.run_work (stage : Stage) : s.Work (stage.run s) := by
  cases stage
  · exact Stage.commitWork_work
  · exact Dt.slew_work
  · exact Sc.scrub_work
  · exact Cd.latch_work

theorem boundaryWork_work : s.Work (boundaryWork s) :=
  .trans (.trans (.of (t := { s with draws := s.draws + 1 })) (.trans Pu.age_work Pu.staleCheck_work)) (.fold fun _ _ _ => Stage.run_work _)

theorem boundary_work : s.Work (boundary s) := .trans .of boundaryWork_work

end Sys2Proof.Machine
end

section
/-! PROOF. The commands' own parts: each is work that keeps what `State.Work` says. -/
namespace Sys2Proof.Machine

-- One declaration after another: as one text the file has more of them than it may have threads.
set_option Elab.async false

variable {s : State} {p : Port} {payload : List Byte}

/-- The three ways of the check that every command with a slot operand makes first (R18). -/
theorem withSlot_cases (payload : List Byte) (body : Nat → State → Reply × State) (s : State) :
    withSlot payload body s = (.badField 0, s) ∨ withSlot payload body s = (.bare .noRecord, s) ∨
      (natAt payload 0 2 < 2048 ∧ (s.record (natAt payload 0 2)).inUse = true ∧
        withSlot payload body s = body (natAt payload 0 2) s) := by
  simp only [withSlot]
  split
  · exact .inl rfl
  · rename_i hs
    cases hu : (s.record (natAt payload 0 2)).inUse
    · exact .inr (.inl rfl)
    · exact .inr (.inr ⟨by omega, rfl, rfl⟩)

/-- The three ways of the check that the record is held by the requesting port (R108). -/
theorem withHold_cases (p : Port) (slot : Nat) (body : State → Reply × State) (s : State) :
    withHold p slot body s = (.bare .notHeld, s) ∨ withHold p slot body s = (⟨.held, byteOf (s.record slot).hold.code⟩, s) ∨
      ((s.record slot).hold = p.hold ∧ withHold p slot body s = body s) := by
  simp only [withHold]
  split
  · exact .inl rfl
  · split
    · exact .inr (.inl rfl)
    · rename_i h
      exact .inr (.inr ⟨Decidable.not_not.1 h, rfl⟩)

/-- Work, and then a change of one port. -/
theorem State.Work.thenPort {t : State} {f : PortState → PortState} (h : s.Work t) (hk : (t.port p).Kept (f (t.port p))) : s.Work (t.onPort p f) :=
  h.trans (.onPort hk)

theorem withSlot_work {body : Nat → State → Reply × State} (h : ∀ slot, s.Work (body slot s).2) : s.Work (withSlot payload body s).2 := by
  rcases withSlot_cases payload body s with e | e | ⟨_, _, e⟩ <;> rw [e]
  · exact .refl s
  · exact .refl s
  · exact h _

theorem withHold_work {slot : Nat} {body : State → Reply × State} (h : s.Work (body s).2) : s.Work (withHold p slot body s).2 := by
  rcases withHold_cases p slot body s with e | e | ⟨_, e⟩ <;> rw [e]
  · exact .refl s
  · exact .refl s
  · exact h

/-! ### Record commands -/

theorem Rt.createBody_work : s.Work (Rt.createBody p payload s).2 := by
  simp only [Rt.createBody]
  split
  · exact .refl s
  · split
    · exact .refl s
    · have h := Rt.allocateCreate_work (s := s) (natAt payload 0 6) (natAt payload 6 2) false
      split
      · exact .refl s
      · rename_i heq
        rw [heq] at h
        refine h.trans ?_
        split
        · exact .refl _
        · exact .trans (.setSeat _ _) (.writeStateWord _ _)

theorem Rt.findBody_work : s.Work (Rt.findBody p payload s).2 := by
  simp only [Rt.findBody]
  split
  · exact .refl s
  · split
    · exact .refl s
    · exact .read _ _ _

theorem Rt.readBody_work : s.Work (Rt.readBody p payload s).2 := withSlot_work fun _ => .read _ _ _

theorem Rt.scan_work (filter left slot : Nat) (found : List Nat) : s.Work (Rt.scan filter left slot found s).2.2 := by
  induction left generalizing slot found s with
  | zero => exact .refl s
  | succ left ih =>
    simp only [Rt.scan]
    split
    · exact .refl s
    · exact .trans (.read _ _ _) (ih _ _)

theorem Rt.scanBody_work : s.Work (Rt.scanBody p payload s).2 := by
  simp only [Rt.scanBody]
  split
  · exact .refl s
  · split
    · exact .refl s
    · exact Rt.scan_work _ _ _ _

theorem Rt.retireBody_work : s.Work (Rt.retireBody p payload s).2 := withSlot_work fun slot => by
  dsimp only
  split
  · exact .refl s
  · split
    · exact .refl s
    · split
      · exact .refl s
      · exact Rt.retireEvaluated_work

theorem Dt.readBody_work : s.Work (Dt.readBody p payload s).2 := withSlot_work fun _ => .read _ _ _

theorem Rt.setBatchBody_work : s.Work (Rt.setBatchBody p payload s).2 := by
  simp only [Rt.setBatchBody]
  split
  · exact .refl s
  · split
    · exact .refl s
    · exact .trans (.of (batches := Table.wf_set)) (Dt.recomputeWhere_work _)

theorem Rt.clearBatchBody_work : s.Work (Rt.clearBatchBody p payload s).2 := by
  simp only [Rt.clearBatchBody]
  split
  · exact .refl s
  · exact .trans (.of (batches := Table.wf_set)) (Dt.recomputeWhere_work _)

theorem Rt.readBatchBody_work : s.Work (Rt.readBatchBody p payload s).2 := by
  simp only [Rt.readBatchBody]
  split
  · exact .refl s
  · split <;> exact .refl s

/-! ### Seat commands -/

theorem Pu.placeBody_work : s.Work (Pu.placeBody p payload s).2 := by
  simp only [Pu.placeBody]
  split
  · exact .refl s
  · split
    · exact .refl s
    · split
      · exact .refl s
      · split
        · exact .trans (Pu.displace_work _) (.trans (.writeStateWord _ _) (.setSeat _ _))
        · split
          · exact .setSeat _ _
          · exact .refl s

theorem Pu.vacateBody_work : s.Work (Pu.vacateBody p payload s).2 := by
  simp only [Pu.vacateBody]
  split
  · exact .refl s
  · exact Pu.empty_work

theorem Pu.readBody_work : s.Work (Pu.readBody p payload s).2 := by
  simp only [Pu.readBody]
  split <;> exact .refl s

/-! ### Edit commands -/

@[simp] theorem State.read_port (rd : Reader) (slot : Nat) (sel : ArrayWord → Bool) : (s.read rd slot sel).port p = s.port p := by
  cases p <;> rfl

@[simp] theorem State.modify_port (slot : Nat) (f : Record → Record) : (s.modify slot f).port p = s.port p := by cases p <;> rfl

theorem Cu.openBody_work : s.Work (Cu.openBody p payload s).2 := withSlot_work fun slot => by
  dsimp only
  split
  · exact .refl s
  · split
    · exact .refl s
    · exact .trans (.read _ _ _) (.trans (State.fillPending_work _) .modifyOf)

theorem Cu.writeBody_work : s.Work (Cu.writeBody p payload s).2 := by
  simp only [Cu.writeBody]
  split
  · exact .refl s
  · exact .refl s
  · refine withSlot_work fun slot => withHold_work ?_
    split
    · exact .refl s
    · exact .refl s
    · split
      · exact .refl s
      · exact .trans (State.writeGroup_work _ _) (.trans .modifyOf Cu.readPendingBank_work)

theorem Cu.readBody_work : s.Work (Cu.readBody p payload s).2 :=
  withSlot_work fun _ => withHold_work Cu.readPendingBank_work

theorem Cu.releaseBody_work : s.Work (Cu.releaseBody p payload s).2 := withSlot_work fun slot => withHold_work (by
  dsimp only [Cu.readPendingBank]
  split
  · exact .refl s
  · exact Cu.discard_work)

theorem Cu.commitBody_work : s.Work (Cu.commitBody p payload s).2 := withSlot_work fun slot => withHold_work (by
  dsimp only [Cu.readPendingBank]
  split
  · exact .refl s
  · exact .refl s
  · split
    · exact .refl s
    · refine .trans (.read .cu slot (isBankWord (s.record slot).pendingIx)) ?_
      split
      · exact .refl _
      · exact .trans .modifyOf Cu.schedule_work)

theorem Cu.groupAddBody_work : s.Work (Cu.groupAddBody p payload s).2 := withSlot_work fun slot => withHold_work (by
  dsimp only [Cu.readPendingBank]
  split
  · exact .refl s
  · split
    · exact .refl s
    · split
      · exact .refl s
      · split
        · exact .refl s
        · rename_i room
          refine .trans (.read .cu slot (isBankWord (s.record slot).pendingIx)) ?_
          split
          · exact .refl _
          · dsimp only
            refine .thenPort .modifyOf ⟨rfl, fun ⟨b1, b2, _⟩ => ⟨b1, b2, ?_⟩⟩
            rw [List.length_append, State.modify_port, State.read_port, List.length_singleton]
            omega)

theorem Cu.groupRemoveBody_work : s.Work (Cu.groupRemoveBody p payload s).2 := withSlot_work fun slot => withHold_work (by
  dsimp only [Cu.readPendingBank]
  split
  · exact .refl s
  · split
    · exact .refl s
    · dsimp only
      exact .thenPort Cu.reopen_work (.lists (List.length_filter_le ..)))

theorem Cu.groupClearBody_work : s.Work (Cu.groupClearBody p payload s).2 := by
  simp only [Cu.groupClearBody]
  exact .thenPort (.fold fun _ _ _ => Cu.reopen_work) (.lists (Nat.zero_le _))

theorem Cu.groupCommitBody_work : s.Work (Cu.groupCommitBody p payload s).2 := by
  simp only [Cu.groupCommitBody]
  split
  · exact .refl s
  · dsimp only
    exact .thenPort (.fold fun _ _ _ => Cu.schedule_work) (.lists (Nat.zero_le _))

/-! ### Load commands -/

theorem Bl.beginBody_work : s.Work (Bl.beginBody p payload s).2 := by
  simp only [Bl.beginBody]
  split
  · exact .refl s
  · split
    · exact .refl s
    · exact .of

theorem Bl.fail_work (reason : Reason) (code : AnswerCode) (items : List Byte) : s.Work (Bl.fail reason code items s).2 :=
  Bl.abort_work _

theorem Bl.recordBody_work : s.Work (Bl.recordBody p payload s).2 := by
  simp only [Bl.recordBody]
  split
  · exact .refl s
  · split
    · exact .refl s
    · split
      · exact Bl.fail_work _ _ _
      · split
        · exact Bl.fail_work _ _ _
        · split
          · rename_i e _
            split
            · exact Bl.fail_work _ _ _
            · refine .trans (.read .bl e.slot isStateWord) ?_
              split
              · exact Bl.fail_work _ _ _
              · split
                · exact Bl.fail_work _ _ _
                · exact Bl.accept_work _ _ _
          · have h := Rt.allocateCreate_work (s := s) (natAt payload 0 6) (natAt payload 6 2) true
            split
            · exact Bl.fail_work _ _ _
            · rename_i heq
              rw [heq] at h
              exact h.trans (Bl.accept_work _ _ _)

theorem Bl.abortBody_work : s.Work (Bl.abortBody p payload s).2 := by
  simp only [Bl.abortBody]
  split
  · exact .refl s
  · split
    · exact .refl s
    · split
      · exact .refl s
      · exact Bl.abort_work _

/-! ### The Notification Unit, the ports and the wall -/

theorem Nu.clearBody_work : s.Work (Nu.clearBody p payload s).2 := .onNu (Nu.countersBounded_of_eq (by cases p <;> rfl))

theorem Nu.enableBody_work : s.Work (Nu.enableBody p payload s).2 := .onNu (Nu.countersBounded_of_eq (by cases p <;> rfl))

theorem Counters.zero_le : ∀ k ∈ Counters.zero.values, k ≤ 65535 := by decide

theorem Nu.clearCountersBody_work : s.Work (Nu.clearCountersBody p payload s).2 :=
  .of (store := .of_records rfl fun _ => Counters.zero_le)

theorem Cx.setZoneBody_work : s.Work (Cx.setZoneBody p payload s).2 := by
  simp only [Cx.setZoneBody]
  split
  · exact .refl s
  · split
    · exact .refl s
    · dsimp only
      exact .onPort .lists

theorem Cx.readZonesBody_work : s.Work (Cx.readZonesBody p payload s).2 := by
  simp only [Cx.readZonesBody]
  split <;> exact .refl s

theorem Cx.readParameterBody_work : s.Work (Cx.readParameterBody p payload s).2 := by
  simp only [Cx.readParameterBody]
  split <;> exact .refl s

theorem Cx.wallResetBody_work : s.Work (Cx.wallResetBody p payload s).2 := by
  rw [Cx.wallResetBody_state]
  exact .trans Pu.strike_work (.trans Trl.clear_work (.trans Cd.withdraw_work (.trans Cu.cancelPort_work (.trans Cu.cancelPort_work
    (.trans Bl.strike_work Dt.strike_work)))))

end Sys2Proof.Machine
end

section
/-! PROOF. The Frame Timing Unit's operations: what every operation keeps, and flags that agree with one another (R133 to R146). -/
namespace Sys2Proof.Machine

-- One declaration after another: as one text the file has more of them than it may have threads.
set_option Elab.async false

variable {s : State}

/-- What an operation of the Frame Timing Unit keeps: the agreement of the flags in place of the flags themselves. -/
structure State.Timed (s t : State) : Prop extends State.Kept s t where
  sound : s.ftu.sound → t.ftu.sound

theorem State.Timed.refl (s : State) : s.Timed s := ⟨.refl s, id⟩

theorem State.Timed.trans {t u : State} (h : s.Timed t) (k : t.Timed u) : s.Timed u := ⟨h.toKept.trans k.toKept, fun f => k.sound (h.sound f)⟩

theorem State.Work.timed {t : State} (h : s.Work t) : s.Timed t := ⟨h.toKept, Ftu.sound_of_flags h.flags⟩

theorem State.Timed.ite {t u : State} {c : Prop} [Decidable c] (h : c → s.Timed t) (k : ¬ c → s.Timed u) : s.Timed (if c then t else u) := by
  split
  · exact h ‹_›
  · exact k ‹_›

theorem State.Kept.onFtu (f : Ftu → Ftu) : s.Kept (s.onFtu f) :=
  ⟨rfl, fun p => by cases p <;> rfl, id, fun _ => id, id, id, fun _ => id⟩

/-- A change of the Frame Timing Unit, and work that follows it. -/
theorem State.Timed.onFtu {f : Ftu → Ftu} (h : s.ftu.sound → (f s.ftu).sound) : s.Timed (s.onFtu f) := ⟨.onFtu f, h⟩

/-- What holds of the flags when the monitor has just left LOCKED (R140, R143). -/
structure Ftu.Unlocked (f : Ftu) : Prop where
  pending : f.switchPending = true ↔ f.requested ≠ f.current
  held : f.expiryHeld = true → f.current = .internal ∧ f.requested = .external
  count : ∀ n, f.monitor = .acquiring n → 1 ≤ n ∧ n ≤ 7
  pulse : f.monitor ≠ .noReference → f.lastPulse ≠ none

theorem Ftu.boundaryIfPassed_work : s.Work (Ftu.boundaryIfPassed s) := .ite (fun _ => boundary_work) fun _ => .refl s

/-- A fallback, and the release of a held expiry, leave the flags in agreement (R140, R143). -/
theorem Ftu.unlocked_timed : s.Kept (Ftu.unlocked s) ∧ (s.ftu.Unlocked → (Ftu.unlocked s).ftu.sound) := by
  cases hc : s.ftu.current
  · have work : ((s.onFtu fun f => { f with current := .internal, switchPending := f.requested == .external })).Work (Ftu.fallback s) :=
      .trans (.refOnset _) Ftu.boundaryIfPassed_work
    rw [Ftu.unlocked_external hc]
    refine ⟨.trans (.onFtu _) work.toKept, fun ⟨_, held, count, pulse⟩ =>
      Ftu.sound_of_flags work.flags ⟨?_, fun h => (nomatch hc.symm.trans (held h).1), nofun, count, pulse⟩⟩
    cases h : s.ftu.requested <;> simp [State.onFtu, h]
  · cases hh : s.ftu.expiryHeld
    · rw [Ftu.unlocked_internal hc hh]
      exact ⟨.refl s, fun ⟨pending, _, count, pulse⟩ => ⟨pending, by simp [hh], by simp [hc], count, pulse⟩⟩
    · have work : (s.onFtu fun f => { f with expiryHeld := false }).Work (Ftu.release s) := Ftu.boundaryIfPassed_work
      rw [Ftu.unlocked_held hc hh]
      exact ⟨.trans (.onFtu _) work.toKept, fun ⟨pending, _, count, pulse⟩ =>
        Ftu.sound_of_flags work.flags ⟨pending, nofun, fun h => (nomatch hc.symm.trans h), count, pulse⟩⟩

/-- The count of a monitor after a pulse (R135). -/
theorem Monitor.pulse_count {inWindow : Bool} {m : Monitor} (h : ∀ n, m = .acquiring n → 1 ≤ n ∧ n ≤ 7) :
    ∀ n, m.pulse inWindow = .acquiring n → 1 ≤ n ∧ n ≤ 7 := by
  intro n hn
  cases m with
  | noReference => cases hn; omega
  | acquiring k =>
    have := h k rfl
    simp only [Monitor.pulse] at hn
    split at hn
    · split at hn <;> cases hn; omega
    · cases hn; omega
  | locked =>
    simp only [Monitor.pulse] at hn
    split at hn <;> cases hn; omega

/-- A pulse recorded with flags in agreement: they agree still but for what hangs on LOCKED. -/
theorem Ftu.record_unlocked {f : Ftu} (inWindow : Bool) (h : f.sound) : (f.record inWindow).Unlocked :=
  let ⟨pending, held, _, count, _⟩ := h
  ⟨pending, fun hh => ⟨(held hh).1, (held hh).2.1⟩, Monitor.pulse_count count, fun _ => nofun⟩

theorem Ftu.record_sound {f : Ftu} {inWindow : Bool} (h : f.sound) (hm : f.monitor ≠ .locked ∨ (f.record inWindow).monitor = .locked) :
    (f.record inWindow).sound :=
  let ⟨pending, held, external, count, _⟩ := h
  ⟨pending,
    fun hh => ⟨(held hh).1, (held hh).2.1, hm.elim (fun hm => absurd (held hh).2.2 hm) id⟩,
    fun hc => hm.elim (fun hm => absurd (external hc) hm) id,
    Monitor.pulse_count count, fun _ => nofun⟩

theorem Ftu.lockedPulse_timed (hl : s.ftu.monitor = .locked) : s.Timed (Ftu.lockedPulse s) := by
  simp only [Ftu.lockedPulse]
  split
  · exact boundary_work.timed
  · exact .refl s
  · rename_i hc hr
    split
    · refine .trans (.onFtu fun ⟨_, _, _, count, pulse⟩ => ⟨?_, by nofun, fun _ => hl, count, pulse⟩) boundary_work.timed
      simp [hr]
    · exact .onFtu fun ⟨pending, _, external, count, pulse⟩ => ⟨pending, fun _ => ⟨hc, hr, hl⟩, external, count, pulse⟩
  · exact .refl s

theorem Ftu.pulse_timed : s.Timed (Ftu.pulse s) := by
  simp only [Ftu.pulse]
  split
  · obtain ⟨kept, sound⟩ := Ftu.unlocked_timed (s := s.onFtu (Ftu.record s.inWindow))
    exact ⟨.trans (.onFtu _) kept, fun h => sound (Ftu.record_unlocked _ h)⟩
  · rename_i hleft
    have kept : s.Timed (s.onFtu (Ftu.record s.inWindow)) := .onFtu fun h => Ftu.record_sound h (by
      by_cases hm : s.ftu.monitor = .locked
      · right
        by_contra hn
        simp [hm, State.onFtu] at hleft
        exact hn hleft
      · exact .inl hm)
    split
    · rename_i hlocked
      refine kept.trans (Ftu.lockedPulse_timed ?_)
      simp at hlocked
      exact hlocked.2
    · exact kept

/-- A loss leaves the flags in agreement (R136). -/
theorem Ftu.lose_timed : s.Timed (Ftu.lose s) := by
  obtain ⟨kept, sound⟩ := Ftu.unlocked_timed (s := s.onFtu fun f => { f with monitor := .noReference, lastPulse := none })
  exact ⟨.trans (.onFtu _) kept, fun ⟨pending, held, _⟩ =>
    sound ⟨pending, fun hh => ⟨(held hh).1, (held hh).2.1⟩, nofun, fun h => absurd rfl h⟩⟩

/-- A switch to INTERNAL completed, at a boundary (R144, R145). -/
theorem Ftu.switchInternal_timed (hc : s.ftu.current = .external) :
    s.Timed (boundary (s.onFtu fun f => { f with requested := .internal, current := .internal, switchPending := false })) :=
  .trans (.onFtu fun ⟨_, held, _, count, pulse⟩ =>
    ⟨by simp, fun h => (nomatch hc.symm.trans (held h).1), by nofun, count, pulse⟩) boundary_work.timed

theorem Ftu.expire_timed : s.Timed (Ftu.expire s) := by
  simp only [Ftu.expire]
  split
  · exact .ite (fun _ => .refl s) fun _ => boundary_work.timed
  · rename_i hc hr
    have h := Ftu.switchInternal_timed hc
    have same : (s.onFtu fun f => { f with requested := .internal, current := .internal, switchPending := false }) =
        s.onFtu fun f => { f with current := .internal, switchPending := false } := by
      simp only [State.onFtu, ← hr]
    rwa [same] at h
  · exact .refl s

/-! ### The passing of time -/

theorem State.moveTo_work (m : Nat) : s.Work (s.moveTo m) := .of

theorem Ftu.nextEvent_timed {m : Nat} {s' : State} (h : Ftu.nextEvent m s = some s') : s.Timed s' := by
  have expiry : ∀ e, s.Timed (Ftu.expire (s.moveTo e)) := fun e => (State.moveTo_work e).timed.trans Ftu.expire_timed
  have loss : ∀ l, s.Timed (Ftu.lose (s.moveTo l)) := fun l => (State.moveTo_work l).timed.trans Ftu.lose_timed
  simp only [Ftu.nextEvent] at h
  split at h
  · split at h
    · cases h; exact expiry _
    · split at h
      · cases h; exact loss _
      · cases h
  · split at h
    · cases h; exact expiry _
    · cases h
  · split at h
    · cases h; exact loss _
    · cases h
  · cases h

theorem Ftu.runEvents_timed (fuel m : Nat) : s.Timed (Ftu.runEvents fuel m s) := by
  induction fuel generalizing s with
  | zero => exact .refl s
  | succ fuel ih =>
    simp only [Ftu.runEvents]
    split
    · exact .refl s
    · rename_i h
      exact (Ftu.nextEvent_timed h).trans ih

theorem State.advance_timed (m : Nat) : s.Timed (s.advance m) := (Ftu.runEvents_timed _ m).trans (State.moveTo_work m).timed

theorem Ftu.reachExpiry_timed : s.Timed (Ftu.reachExpiry s) := by
  simp only [Ftu.reachExpiry]
  split
  · exact (State.advance_timed _).trans Ftu.expire_timed
  · exact State.advance_timed _

theorem Ftu.reachLoss_timed : s.Timed (Ftu.reachLoss s) := by
  simp only [Ftu.reachLoss]
  split
  · exact .refl s
  · split
    · exact (State.advance_timed _).trans Ftu.lose_timed
    · exact State.advance_timed _

theorem State.idle_timed : s.Timed s.idle := by
  simp only [State.idle]
  split
  · exact State.advance_timed _
  · rename_i u rest _
    have flipped : s.Work { s with store := s.store.flip u, upsets := rest } :=
      .of (store := .of_records (by simp only [Store.flip]; split <;> rfl) (by simp only [Store.flip]; split <;> exact id))
    exact flipped.timed.trans (State.advance_timed _)

/-! ### Choosing the source, and the nominal period -/

theorem Ftu.select_timed (source : Source) : s.Timed (Ftu.select source s) := by
  simp only [Ftu.select]
  split
  · rename_i hc
    exact .onFtu fun ⟨_, held, external, count, pulse⟩ => ⟨by simp [hc], fun h => (nomatch hc.symm.trans (held h).1), external, count, pulse⟩
  · rename_i hc
    refine .trans (.onFtu fun ⟨_, held, external, count, pulse⟩ => ⟨by simp [hc], fun h => ⟨hc, rfl, (held h).2.2⟩, external, count, pulse⟩)
      (State.Work.refOnset _).timed
  · rename_i hc
    split
    · exact Ftu.switchInternal_timed hc
    · exact .onFtu fun ⟨_, held, external, count, pulse⟩ =>
        ⟨by simp [hc], fun h => (nomatch hc.symm.trans (held h).1), external, count, pulse⟩
  · rename_i hc
    split
    · exact .trans (.onFtu (f := fun f => { f with requested := .internal, switchPending := false, expiryHeld := false })
        fun ⟨_, _, external, count, pulse⟩ => ⟨by simp [hc], nofun, external, count, pulse⟩) Ftu.boundaryIfPassed_work.timed
    · rename_i hh
      exact .onFtu fun ⟨_, held, external, count, pulse⟩ => ⟨by simp [hc], fun h => absurd h hh, external, count, pulse⟩

/-- The state with a new period stored, and the next expiry set afresh from it (R146). -/
def State.repaced (v : Nat) (s : State) : State :=
  ({ s with params := { s.params with nominalPeriod := v } } : State).onFtu fun f => { f with nextExpiry := f.lastBoundary + v }

/-- A boundary at once, on internal timing where the next expiry has passed (R146). -/
def Ftu.boundaryIfDue (s : State) : State := if s.ftu.current = .internal ∧ s.ftu.nextExpiry ≤ s.ftu.now then boundary s else s

/-- The loss declared at once, where its deadline has passed (R146). -/
def Ftu.loseIfPassed (s : State) : State :=
  match s.lossDeadline with
  | some l => if l ≤ s.ftu.now then Ftu.lose s else s
  | none => s

theorem Ftu.writePeriod_eq (v : Nat) (s : State) : Ftu.writePeriod v s = Ftu.loseIfPassed (Ftu.boundaryIfDue (s.repaced v)) := rfl

theorem Ftu.boundaryIfDue_work : s.Work (Ftu.boundaryIfDue s) := .ite (fun _ => boundary_work) fun _ => .refl s

theorem Ftu.loseIfPassed_timed : s.Timed (Ftu.loseIfPassed s) := by
  simp only [Ftu.loseIfPassed]
  split
  · exact .ite (fun _ => Ftu.lose_timed) fun _ => .refl s
  · exact .refl s

/-- From the state with the new period stored. -/
theorem Ftu.writePeriod_timed (v : Nat) : ({ s with params := { s.params with nominalPeriod := v } } : State).Timed (Ftu.writePeriod v s) := by
  rw [Ftu.writePeriod_eq]
  exact .trans (t := s.repaced v) (.onFtu id) (Ftu.boundaryIfDue_work.timed.trans Ftu.loseIfPassed_timed)

end Sys2Proof.Machine
end

section
/-! PROOF. A write of HEADROOM_LIMIT brings every gain within the new limit (R95). -/
namespace Sys2Proof.Machine

-- One declaration after another: as one text the file has more of them than it may have threads.
set_option Elab.async false

/-! ### Work done slot by slot -/

/-- Local work over a list of slots without repetition: a slot that is not listed reads as before, and one that is listed reads what the work made of
it in some store in which its record was as at the beginning. -/
theorem Store.fold_local {f : Nat → Store → Store} (hl : ∀ n st, Store.Local n st (f n st)) {l : List Nat} (hn : l.Nodup) {st : Store}
    (hw : Table.wf Record.blank st.records) :
    Table.wf Record.blank (l.foldl (fun acc n => f n acc) st).records ∧
      (∀ n, n ∉ l → (l.foldl (fun acc n => f n acc) st).get n = st.get n) ∧
      ∀ n ∈ l, ∃ a : Store, Table.wf Record.blank a.records ∧ a.get n = st.get n ∧
        (l.foldl (fun acc n => f n acc) st).get n = (f n a).get n := by
  induction l generalizing st with
  | nil => exact ⟨hw, fun _ _ => rfl, nofun⟩
  | cons k l ih =>
    obtain ⟨hk, hn⟩ := List.nodup_cons.1 hn
    have first := hl k st
    obtain ⟨h1, h2, h3⟩ := ih hn (first.wf hw)
    refine ⟨h1, fun n hkl => ?_, fun n hkl => ?_⟩
    · rw [List.mem_cons, not_or] at hkl
      exact (h2 n hkl.2).trans (first.other n hkl.1)
    · rcases List.mem_cons.1 hkl with rfl | hnl
      · exact ⟨st, hw, rfl, h2 n hk⟩
      · obtain ⟨a, ha, hg, hr⟩ := h3 n hnl
        exact ⟨a, ha, hg.trans (first.other n fun h => hk (h ▸ hnl)), hr⟩

theorem Store.eachInUse_local {f : Nat → Store → Store} (hl : ∀ n st, Store.Local n st (f n st)) {st : Store}
    (hw : Table.wf Record.blank st.records) :
    Table.wf Record.blank (st.eachInUse f).records ∧ (∀ n, (st.get n).inUse = false → (st.eachInUse f).get n = st.get n) ∧
      ∀ n, (st.get n).inUse = true → ∃ a : Store, Table.wf Record.blank a.records ∧ a.get n = st.get n ∧
        (st.eachInUse f).get n = (f n a).get n := by
  obtain ⟨h1, h2, h3⟩ := Store.fold_local hl (Store.inUseSlots_nodup hw) hw
  exact ⟨h1, fun n hu => h2 n (by simp [Store.mem_inUseSlots, hu]), fun n hu => h3 n (Store.mem_inUseSlots.2 hu)⟩

/-! ### The applied gains alone -/

/-- No applied gain above a limit (R1). -/
def Record.appliedWithin (limit : Nat) (r : Record) : Prop := r.applied.r ≤ limit ∧ r.applied.g ≤ limit ∧ r.applied.b ≤ limit

theorem Record.within.appliedWithin {limit : Nat} {r : Record} (h : r.within limit) : r.appliedWithin limit := (Record.within_iff.1 h).2

theorem Record.within.mono {limit limit' : Nat} {r : Record} (h : r.within limit) (hl : limit ≤ limit') : r.within limit' :=
  fun v hv => (h v hv).trans hl

theorem Record.appliedWithin_clamped (limit : Nat) (r : Record) : (r.clamped limit).appliedWithin limit :=
  ⟨Nat.min_le_left .., Nat.min_le_left .., Nat.min_le_left ..⟩

/-- Work on one slot that keeps its applied gains within a limit. -/
def Store.AppliedKept (limit slot : Nat) (st st' : Store) : Prop :=
  Table.wf Record.blank st.records → Table.wf Record.blank st'.records ∧
    ((st.get slot).appliedWithin limit → (st'.get slot).appliedWithin limit)

theorem Store.AppliedKept.put {limit slot : Nat} {st : Store} {r : Record}
    (h : (st.get slot).appliedWithin limit → r.appliedWithin limit) : st.AppliedKept limit slot (st.put slot r) :=
  fun w => ⟨Table.wf_set w, fun ha => (Store.get_put_same w).symm ▸ h ha⟩

theorem Store.AppliedKept.closure (cx : Ctx) (slot : Nat) : Store.Closure cx slot (Store.AppliedKept cx.limit slot) where
  refl _ w := ⟨w, id⟩
  trans h k w := ⟨(k (h w).1).1, fun ha => (k (h w).1).2 ((h w).2 ha)⟩
  damage _ _ w := ⟨w, id⟩
  finding _ _ w := ⟨w, id⟩
  count _ _ _ w := ⟨w, id⟩
  suspected _ w := ⟨w, id⟩
  suspect _ := .put id
  rebuilt _ _ := .put id
  named _ _ _ _ := .put id
  cleared _ := .put id
  retarget st after bank w := ⟨(Dt.retarget_local after bank).wf w, fun ha => by
    rw [Dt.get_retarget_same w]
    exact (Record.within_retargeted fun _ => ha).appliedWithin⟩
  zeroed _ _ _ := .put (by simp [Record.appliedWithin])
  marked _ _ := .put id

variable {cx : Ctx} {slot : Nat} {st : Store} {after : After}

/-! ### Every recompute ends with its targets within the limit -/

theorem Dt.retarget_within {bank : Bank} (w : Table.wf Record.blank st.records) (ha : (st.get slot).appliedWithin cx.limit) :
    ((Dt.retarget cx after slot bank st).get slot).within cx.limit := by
  rw [Dt.get_retarget_same w]
  exact Record.within_retargeted fun _ => ha

theorem Dt.recomputeFallback_within (w : Table.wf Record.blank st.records) (ha : (st.get slot).appliedWithin cx.limit) :
    ((Dt.recomputeFallback cx after slot st).get slot).within cx.limit := by
  have closed := Store.AppliedKept.closure cx slot
  simp only [Dt.recomputeFallback]
  split
  · obtain ⟨w, keep⟩ := closed.correct st isDriftWord w
    exact Dt.retarget_within w (keep ha)
  · obtain ⟨w, keep⟩ := closed.trans (closed.correct st isDriftWord)
      (closed.trans (closed.foundDouble _ .dt .drift _) (closed.clearDrift _)) w
    exact Dt.retarget_within w (keep ha)

theorem Rt.condemn_within {identityWord : Bool} (hl : (st.get slot).state = .live) (w : Table.wf Record.blank st.records)
    (ha : (st.get slot).appliedWithin cx.limit) :
    ((Rt.condemn cx after false identityWord true slot st).get slot).within cx.limit := by
  have closed := Store.AppliedKept.closure cx slot
  simp only [Rt.condemn, hl, beq_self_eq_true, Bool.and_self, if_true, Bool.false_eq_true, if_false]
  obtain ⟨w, keep⟩ := closed.trans (closed.thenIf (c := identityWord = true) (closed.writeSuspect st) (closed.rebuildIdentity _))
    (closed.suspected _) w
  exact Dt.recomputeFallback_within w (keep ha)

theorem Dt.recomputeFromBank_within (w : Table.wf Record.blank st.records) (ha : (st.get slot).appliedWithin cx.limit) :
    ((Dt.recomputeFromBank cx after slot st).get slot).within cx.limit := by
  have closed := Store.AppliedKept.closure cx slot
  simp only [Dt.recomputeFromBank]
  split
  · rename_i hl
    split
    · obtain ⟨w, keep⟩ := closed.correct st (isDriftBankWord (st.get slot).active) w
      exact Dt.retarget_within w (keep ha)
    · obtain ⟨w, keep⟩ := closed.trans (closed.correct st (isDriftBankWord (st.get slot).active))
        (closed.foundDouble _ .dt .activeBank _) w
      refine Rt.condemn_within ?_ w (keep ha)
      exact (congrArg Record.state (Store.correct_get (isDriftBankWord (st.get slot).active) slot)).trans hl
  · exact Dt.retarget_within w ha

/-- A recompute leaves both gains of its record within the limit, where the applied gains were (R89, R100). -/
theorem Dt.recompute_within (w : Table.wf Record.blank st.records) (ha : (st.get slot).appliedWithin cx.limit) :
    ((Dt.recompute cx after slot st).get slot).within cx.limit := by
  have closed := Store.AppliedKept.closure cx slot
  simp only [Dt.recompute]
  split
  · obtain ⟨w, keep⟩ := closed.correct st isDriftWord w
    exact Dt.recomputeFromBank_within w (keep ha)
  · obtain ⟨w, keep⟩ := closed.trans (closed.correct st isDriftWord)
      (closed.trans (closed.foundDouble _ .dt .drift _) (closed.clearDrift _)) w
    exact Dt.recomputeFromBank_within w (keep ha)

theorem Dt.clampApplied_appliedWithin (w : Table.wf Record.blank st.records) :
    ((Dt.clampApplied cx slot st).get slot).appliedWithin cx.limit := by
  rw [Dt.clampApplied, Store.get_modify_same ((Rt.read_local .dt isAppliedWord).wf w)]
  exact Record.appliedWithin_clamped _ _

/-! ### The write of HEADROOM_LIMIT -/

/-- The state with a new limit stored (R95). -/
def State.limited (v : Nat) (s : State) : State := { s with params := { s.params with headroomLimit := v } }

/-- The applied gains of every record in use clamped to the limit (R95). -/
def Dt.clampAll (s : State) : State := s.onStore fun cx st => st.eachInUse (Dt.clampApplied cx)

theorem Dt.writeLimit_eq (v : Nat) (s : State) : Dt.writeLimit v s =
    Dt.recomputeWhere (fun _ => true) (if v < s.params.headroomLimit then Dt.clampAll (s.limited v) else s.limited v) := rfl

theorem Dt.clampAll_work {s : State} : s.Work (Dt.clampAll s) :=
  .onStore (.eachInUse fun n _ => (Store.Kept.closure s.ctx n).clampApplied _ fun _ => .modify fun r h => by
    have ⟨ht, _⟩ := Record.within_iff.1 h
    exact Record.within_iff.2 ⟨ht, Record.appliedWithin_clamped _ r⟩)

/-- From the state with the new limit stored. -/
theorem Dt.writeLimit_work {s : State} (v : Nat) : (s.limited v).Work (Dt.writeLimit v s) := by
  rw [Dt.writeLimit_eq]
  exact .trans (.ite (fun _ => Dt.clampAll_work) fun _ => .refl _) (Dt.recomputeWhere_work _)

/-- Records of which every one in use has its applied gains within the limit have both gains within it once every one is recomputed. -/
theorem Dt.recomputeAll_within {s : State} (hc : s.canonical) (ha : ∀ n, (s.record n).inUse = true → (s.record n).appliedWithin s.params.headroomLimit)
    (hb : ∀ n, (s.record n).inUse = false → (s.record n).within s.params.headroomLimit) :
    (Dt.recomputeWhere (fun _ => true) s).withinLimit := by
  obtain ⟨_, free, used⟩ := Store.eachInUse_local (st := s.store) (f := fun slot acc => Dt.recompute s.ctx .slew slot acc)
    (fun _ _ => Dt.recompute_local .slew) hc.1
  intro n
  show ((s.store.eachInUse fun slot acc => Dt.recompute s.ctx .slew slot acc).get n).within s.params.headroomLimit
  cases hu : (s.store.get n).inUse
  · rw [free n hu]; exact hb n hu
  · obtain ⟨a, hw, hg, hr⟩ := used n hu
    rw [hr]
    exact Dt.recompute_within hw (hg ▸ ha n hu)

theorem Dt.writeLimit_within {s : State} (v : Nat) (hc : s.canonical) (hb : ∀ n, (s.record n).inUse = false → s.record n = Record.blank)
    (hw : s.withinLimit) : (Dt.writeLimit v s).withinLimit := by
  have blank : ∀ n, (s.record n).inUse = false → (s.record n).within v := fun n hu => hb n hu ▸ Record.within_blank v
  rw [Dt.writeLimit_eq]
  split
  · obtain ⟨_, free, used⟩ := Store.eachInUse_local (st := s.store) (f := Dt.clampApplied (s.limited v).ctx)
      (fun _ _ => Dt.clampApplied_local) hc.1
    refine Dt.recomputeAll_within (Dt.clampAll_work.canonical hc) (fun n hu => ?_) fun n hu => ?_
    · show ((s.store.eachInUse (Dt.clampApplied (s.limited v).ctx)).get n).appliedWithin v
      cases hs : (s.store.get n).inUse
      · rw [free n hs]; exact (blank n hs).appliedWithin
      · obtain ⟨a, wa, _, hr⟩ := used n hs
        rw [hr]; exact Dt.clampApplied_appliedWithin wa
    · show ((s.store.eachInUse (Dt.clampApplied (s.limited v).ctx)).get n).within v
      cases hs : (s.store.get n).inUse
      · rw [free n hs]; exact blank n hs
      · obtain ⟨a, wa, hg, hr⟩ := used n hs
        have alike := (Dt.clampApplied_local (cx := (s.limited v).ctx) (slot := n) (st := a)).own wa
        rw [show (Dt.clampAll (s.limited v)).record n = (Dt.clampApplied (s.limited v).ctx n a).get n from hr, alike.inUse, hg, hs] at hu
        cases hu
  · rename_i hl
    have within : ∀ n, (s.record n).within v := fun n => Record.within.mono (hw n) (by omega)
    exact Dt.recomputeAll_within hc (fun n _ => (within n).appliedWithin) fun n _ => within n

end Sys2Proof.Machine
end

section
/-! PROOF. Every step keeps the form of the tables, the gains within the limit, the timing flags in agreement and the bounds (R1, R53, R78, R117, R133,
R174, R175, R182, R195). -/
namespace Sys2Proof.Machine

-- One declaration after another: as one text the file has more of them than it may have threads.
set_option Elab.async false

variable {s t : State} {p : Port}

/-- What a step keeps, every invariant but the directory. -/
structure State.Safe (s t : State) : Prop where
  canonical : s.canonical → t.canonical
  gains : s.canonical → s.directory → s.withinLimit → t.withinLimit
  sound : s.ftu.sound → t.ftu.sound
  bounded : s.bounded → t.bounded
  counters : s.countersBounded → t.countersBounded
  params : s.params.inRange → t.params.inRange
  dither : s.params.inRange → s.ditherSound → t.ditherSound

theorem State.Timed.safe (h : s.Timed t) : s.Safe t :=
  ⟨h.canonical, fun c _ => h.gains c, h.sound, h.bounded, h.counters, fun r => h.params ▸ r, h.dither⟩

theorem State.Work.safe (h : s.Work t) : s.Safe t := h.timed.safe

/-! ### The executor -/

/-- A command's own part: it keeps what a step keeps, and the answers queued. -/
structure State.Bodied (s t : State) : Prop extends State.Safe s t where
  answers : ∀ p, (t.port p).answers = (s.port p).answers

theorem State.Timed.bodied (h : s.Timed t) : s.Bodied t := ⟨h.safe, h.answers⟩

theorem State.Work.bodied (h : s.Work t) : s.Bodied t := h.timed.bodied

/-- What the executor takes: the head of the queue of an attached port with room for the answer (R177). -/
theorem Cx.take_some {m : Message} {s' : State} (h : Cx.take s = some (p, m, s')) : ∃ rest, s' = s.taken p rest ∧
    (s.port p).messages = m :: rest ∧ s.store.nu.attached p = true ∧ (s.port p).answers.length < 4 := by
  simp only [Cx.take] at h
  split at h
  · cases h
  · rename_i q hq
    split at h
    · cases h
    · rename_i hm
      cases h
      have eligible : s.eligible p = true := by
        simp only [State.nextPort] at hq
        split at hq
        · cases hq; assumption
        · split at hq
          · cases hq; assumption
          · cases hq
      simp only [State.eligible, Bool.and_eq_true, decide_eq_true_eq] at eligible
      exact ⟨_, rfl, hm, eligible.1.1, eligible.2⟩

theorem State.taken_work {m : Message} {rest : List Message} (h : (s.port p).messages = m :: rest) : s.Work (s.taken p rest) := by
  refine .trans (t := s.onPort p fun q => { q with messages := rest }) (.onPort ⟨rfl, fun ⟨b1, b2, b3⟩ => ⟨?_, b2, b3⟩⟩) ?_
  · rw [h, List.length_cons] at b1
    exact (Nat.le_succ _).trans b1
  · cases p <;> exact .of

theorem State.taken_directory {rest : List Message} (h : s.directory) : (s.taken p rest).directory  := by
  simpa only [State.directory, State.pool, State.indexed, State.seated, State.claims, State.taken_freeQueue, State.taken_record,
    State.taken_lookup, State.taken_seat, State.taken_commitList, State.taken_scheduled, State.taken_load] using h

/-- An answer appended where there is room (R175, R177). -/
theorem Cx.answer_safe {tag : Byte} {r : Reply} (h : (s.port p).answers.length < 4) : s.Safe (Cx.answer p tag r s) := by
  have room : ∀ q : PortState, q.answers.length < 4 → q.bounded → PortState.bounded { q with answers := q.answers ++ [r.toAnswer tag] } :=
    fun q hq ⟨b1, _, b3⟩ => ⟨b1, by simpa using hq, b3⟩
  cases p
  · exact ⟨id, fun _ _ => id, id, fun ⟨b1, b2, b3⟩ => ⟨room _ h b1, b2, b3⟩, id, id, fun _ => id⟩
  · exact ⟨id, fun _ _ => id, id, fun ⟨b1, b2, b3⟩ => ⟨b1, room _ h b2, b3⟩, id, id, fun _ => id⟩

theorem State.Safe.trans_of {u : State} (h : s.Work t) (hd : s.directory → t.directory) (k : t.Safe u) : s.Safe u :=
  ⟨fun c => k.canonical (h.canonical c), fun c d g => k.gains (h.canonical c) (hd d) (h.gains c g), fun f => k.sound (Ftu.sound_of_flags h.flags f),
    fun b => k.bounded (h.bounded b), fun c => k.counters (h.counters c), fun r => k.params (h.params ▸ r),
    fun r d => k.dither (h.params ▸ r) (h.dither r d)⟩

theorem State.Safe.then_answer {tag : Byte} {r : Reply} (h : s.Safe t) (ha : (t.port p).answers.length < 4) : s.Safe (Cx.answer p tag r t) := by
  have k := Cx.answer_safe (tag := tag) (r := r) ha
  have within : t.withinLimit → (Cx.answer p tag r t).withinLimit := by cases p <;> exact id
  exact ⟨fun c => k.canonical (h.canonical c), fun c d g => within (h.gains c d g), fun f => k.sound (h.sound f),
    fun b => k.bounded (h.bounded b), fun c => k.counters (h.counters c), fun r => k.params (h.params r),
    fun r d => k.dither (h.params r) (h.dither r d)⟩

/-- A command keeps what its own part keeps (R177). -/
theorem Cx.run_safe {codes : Nat → Bool} {body : Body} (h : ∀ p payload s, State.Bodied s (body p payload s).2) : s.Safe (Cx.run codes body s) := by
  simp only [Cx.run]
  split
  · exact (State.Work.refl s).safe
  · rename_i p m s' htake
    obtain ⟨rest, rfl, hm, _, room⟩ := Cx.take_some htake
    split
    · have own := h p m.payload (s.taken p rest)
      refine .trans_of (State.taken_work hm) State.taken_directory (own.toSafe.then_answer ?_)
      rw [own.answers, State.taken_answers]
      exact room
    · exact (State.Work.refl s).safe

theorem Cx.command_safe {code : Nat} {aOnly : Bool} {fits : Nat → Bool} {body : Body} (h : ∀ p payload s, State.Bodied s (body p payload s).2) :
    s.Safe (Cx.command code aOnly fits body s) := by
  refine Cx.run_safe fun p payload s => ?_
  simp only [Cx.checked]
  split
  · exact (State.Work.refl s).bodied
  · split
    · exact (State.Work.refl s).bodied
    · exact h p payload s

/-- A command whose own part is work. -/
theorem Cx.command_work {code : Nat} {aOnly : Bool} {fits : Nat → Bool} {body : Body} (h : ∀ p payload s, State.Work s (body p payload s).2) :
    s.Safe (Cx.command code aOnly fits body s) := Cx.command_safe fun p payload s => (h p payload s).bodied

/-! ### SELECT_SOURCE and SET_PARAMETER -/

theorem Ftu.selectBody_timed {payload : List Byte} : s.Timed (Ftu.selectBody p payload s).2 := by
  simp only [Ftu.selectBody]
  split
  · exact .refl s
  · exact Ftu.select_timed _

/-- The two ends of a range (R182). -/
theorem clampNat_mem {lo hi v : Nat} (h : lo ≤ hi) : lo ≤ clampNat lo hi v ∧ clampNat lo hi v ≤ hi := by
  simp only [clampNat]; omega

theorem Param.taken_mem (q : Param) (v : Nat) : q.range.1 ≤ q.taken v ∧ q.taken v ≤ q.range.2 := clampNat_mem (by cases q <;> decide)

theorem flagValue_mem (b : Bool) : 0 ≤ flagValue b ∧ flagValue b ≤ 1 := by cases b <;> decide

/-- The sixteen parameters in the order of their numbers (R182). -/
def Param.kinds : List Param := (List.range 16).filterMap fun i => paramOf (i + 1)

theorem Param.mem_kinds (q : Param) : q ∈ Param.kinds := by cases q <;> decide

/-- What a parameter reads after a value was stored in it (R183). -/
def Param.reads (q : Param) (v : Nat) : Nat := ((default : Params).store q v).value q

/-- The values of the sixteen parameters after one was stored: its own is replaced. -/
theorem Params.values_store {ps : Params} {q : Param} {v : Nat} :
    Param.kinds.map (ps.store q v).value = (Param.kinds.map ps.value).set (Param.kinds.idxOf q) (q.reads v) := by
  cases q <;> rfl

theorem Params.value_store {ps : Params} {q q' : Param} {v : Nat} : (ps.store q v).value q' = if q = q' then q.reads v else ps.value q' := by
  have place := List.idxOf_lt_length_of_mem q'.mem_kinds
  have at_q' := congrArg (·[Param.kinds.idxOf q']?) (Params.values_store (ps := ps) (q := q) (v := v))
  simpa [List.getElem_set, place, List.idxOf_inj q.mem_kinds] using at_q'

/-- A value in the range of its parameter, stored, leaves every parameter in its range (R182, R183). -/
theorem Params.inRange_store {ps : Params} {q : Param} {v : Nat} (h : ps.inRange) (hv : q.range.1 ≤ v ∧ v ≤ q.range.2) :
    (ps.store q v).inRange := by
  intro q'
  rw [Params.value_store]
  split
  · subst q'
    cases q <;> first | exact hv | exact flagValue_mem _
  · exact h q'

/-- Work from the state with a value stored (R183). -/
theorem State.Bodied.stored {q : Param} {v : Nat} (hv : q.range.1 ≤ v ∧ v ≤ q.range.2)
    (h : ({ s with params := s.params.store q v } : State).Timed t)
    (hg : s.canonical → s.directory → s.withinLimit → t.withinLimit) : s.Bodied t :=
  ⟨⟨h.canonical, hg, h.sound, h.bounded, h.counters, fun r => h.params ▸ Params.inRange_store r hv,
    fun r => h.dither (Params.inRange_store r hv)⟩, fun p => (h.answers p).trans (by cases p <;> rfl)⟩

/-- The limit stands with every parameter but HEADROOM_LIMIT. -/
theorem Params.store_limit {ps : Params} {q : Param} {v : Nat} (h : q ≠ .headroomLimit) : (ps.store q v).headroomLimit = ps.headroomLimit := by
  cases q <;> first | exact absurd rfl h | rfl

theorem Cx.writeParam_bodied {q : Param} {v : Nat} (hv : q.range.1 ≤ v ∧ v ≤ q.range.2) : s.Bodied (Cx.writeParam q v s) := by
  have other : q ≠ .headroomLimit → ({ s with params := s.params.store q v } : State).Timed (Cx.writeParam q v s) →
      s.Bodied (Cx.writeParam q v s) := fun hq h => .stored hv h fun c _ g => h.gains c fun n => by
    have := g n
    rwa [← Params.store_limit (ps := s.params) (v := v) hq] at this
  cases q
  case headroomLimit => exact .stored hv (Dt.writeLimit_work v).timed fun c d g => Dt.writeLimit_within v c d.1.2.2.1 g
  case fallbackGain => exact other nofun (Dt.recomputeWhere_work _).timed
  case ditherSeed => exact other nofun (State.Work.of (s := { s with params := s.params.store .ditherSeed v })).timed
  case poolLowThreshold => exact other nofun (State.Work.poolOnset _).timed
  case nominalPeriod => exact other nofun (Ftu.writePeriod_timed v)
  case driftGap => exact other nofun (State.Work.of (s := { s with params := s.params.store .driftGap v })).timed
  all_goals exact other nofun (.refl _)

theorem Cx.setParameterBody_bodied {payload : List Byte} : s.Bodied (Cx.setParameterBody p payload s).2 := by
  simp only [Cx.setParameterBody]
  split
  · exact (State.Work.refl s).bodied
  · split
    · exact (State.Work.refl s).bodied
    · split
      · exact (State.Work.refl s).bodied
      · exact Cx.writeParam_bodied (Param.taken_mem _ _)

/-! ### The ports and the release -/

/-- A change of one port that keeps its bounds. -/
theorem State.Safe.onPort {f : PortState → PortState} (h : (s.port p).bounded → (f (s.port p)).bounded) : s.Safe (s.onPort p f) := by
  cases p
  · exact ⟨id, fun _ _ => id, id, fun ⟨b1, b2, b3⟩ => ⟨h b1, b2, b3⟩, id, id, fun _ => id⟩
  · exact ⟨id, fun _ _ => id, id, fun ⟨b1, b2, b3⟩ => ⟨b1, h b2, b3⟩, id, id, fun _ => id⟩

theorem Port.discard_work : s.Work (p.discard s) := .trans (.addEvent _ _) (.count _)

theorem Port.receive_safe (bytes : List Byte) : s.Safe (p.receive bytes s) := by
  simp only [Port.receive]
  split
  · exact Port.discard_work.safe
  · split
    · rename_i room
      exact .onPort fun ⟨_, b2, b3⟩ => ⟨by simpa using room, b2, b3⟩
    · exact Port.discard_work.safe

theorem Port.readAnswer_safe (clocked : Nat) : s.Safe (p.readAnswer clocked s) := by
  refine .onPort fun ⟨b1, b2, b3⟩ => ?_
  split
  · exact ⟨b1, b2, b3⟩
  · rename_i head rest hq
    refine ⟨b1, ?_, b3⟩
    rw [hq, List.length_cons] at b2
    dsimp only
    split
    · exact (Nat.le_succ _).trans b2
    · exact b2

theorem Port.transaction_safe (bytes : List Byte) : s.Safe (p.transaction bytes s) := by
  simp only [Port.transaction]
  split
  · exact (State.Work.refl s).safe
  · split
    · exact (State.Work.refl s).safe
    · split
      · exact Port.readAnswer_safe _
      · exact Port.receive_safe _

/-- A step of work, and then a change that touches none of the invariants' parts but to keep their bounds. -/
theorem Port.detachB_safe : s.Safe (Port.detachB s) := by
  have work : s.Work (Bl.detached (Cu.cancelPort .b s)) := .trans Cu.cancelPort_work Bl.detached_work
  exact ⟨work.canonical, fun c _ => work.gains c, Ftu.sound_of_flags work.flags,
    fun b => ⟨(work.bounded b).1, ⟨Nat.zero_le _, Nat.zero_le _, (work.bounded b).2.1.2.2⟩, (work.bounded b).2.2⟩,
    work.counters, fun r => work.params ▸ r, work.dither⟩

theorem Params.inRange_default : Params.default.inRange := fun q => by cases q <;> decide

/-- The state after a release meets every invariant (R185). -/
theorem State.release_canonical : s.release.canonical :=
  ⟨Table.wf_nil, Table.wf_nil, Table.wf_nil, Table.wf_nil, Table.wf_nil, Table.wf_nil, Table.wf_nil, Table.wf_nil⟩

theorem State.release_sound : s.release.ftu.sound :=
  ⟨⟨fun _ => nofun, fun _ => rfl⟩, nofun, nofun, nofun, fun h => absurd rfl h⟩

theorem State.release_bounded : s.release.bounded :=
  ⟨⟨Nat.zero_le _, Nat.zero_le _, Nat.zero_le _⟩, ⟨Nat.zero_le _, Nat.zero_le _, Nat.zero_le _⟩, Nat.zero_le _⟩

theorem State.release_ditherSound : s.release.ditherSound := ⟨show (0x2D1B : BitVec 15) ≠ 0 by decide, nofun⟩

theorem State.release_safe : s.Safe s.release :=
  ⟨fun _ => State.release_canonical, fun _ _ _ _ => Record.within_blank _, fun _ => State.release_sound, fun _ => State.release_bounded,
    fun _ => Counters.zero_le, fun _ => Params.inRange_default, fun _ _ => State.release_ditherSound⟩

/-! ### Every command and every step -/

theorem exec_safe (c : Instr) (s : State) : ∃ t, exec c s = .next t ∧ s.Safe t := by
  have idle := State.Work.refl s
  cases c
  case resetNRelease => exact ⟨_, rfl, State.release_safe⟩
  case portBAttach => exact ⟨_, rfl, (State.Work.onNu (f := Nu.attach true) id).safe⟩
  case portBDetach => exact ⟨_, rfl, by split; exacts [Port.detachB_safe, idle.safe]⟩
  case messageWrite p bytes => exact ⟨_, rfl, Port.transaction_safe _⟩
  case answerRead p clocked => exact ⟨_, rfl, by split; exacts [Port.readAnswer_safe _, idle.safe]⟩
  case unknownCommand => exact ⟨_, rfl, Cx.run_safe fun _ _ s => (State.Work.refl s).bodied⟩
  case identify => exact ⟨_, rfl, Cx.command_work fun _ _ s => .refl s⟩
  case setParameter => exact ⟨_, rfl, Cx.command_safe fun _ _ _ => Cx.setParameterBody_bodied⟩
  case readParameter => exact ⟨_, rfl, Cx.command_work fun _ _ _ => Cx.readParameterBody_work⟩
  case setZone => exact ⟨_, rfl, Cx.command_work fun _ _ _ => Cx.setZoneBody_work⟩
  case readZones => exact ⟨_, rfl, Cx.command_work fun _ _ _ => Cx.readZonesBody_work⟩
  case wallReset => exact ⟨_, rfl, Cx.command_work fun _ _ _ => Cx.wallResetBody_work⟩
  case createRecord => exact ⟨_, rfl, Cx.command_work fun _ _ _ => Rt.createBody_work⟩
  case findRecord => exact ⟨_, rfl, Cx.command_work fun _ _ _ => Rt.findBody_work⟩
  case readRecord => exact ⟨_, rfl, Cx.command_work fun _ _ _ => Rt.readBody_work⟩
  case scanRecords => exact ⟨_, rfl, Cx.command_work fun _ _ _ => Rt.scanBody_work⟩
  case retireRecord => exact ⟨_, rfl, Cx.command_work fun _ _ _ => Rt.retireBody_work⟩
  case readDrift => exact ⟨_, rfl, Cx.command_work fun _ _ _ => Dt.readBody_work⟩
  case setBatchDefault => exact ⟨_, rfl, Cx.command_work fun _ _ _ => Rt.setBatchBody_work⟩
  case clearBatchDefault => exact ⟨_, rfl, Cx.command_work fun _ _ _ => Rt.clearBatchBody_work⟩
  case readBatchDefault => exact ⟨_, rfl, Cx.command_work fun _ _ _ => Rt.readBatchBody_work⟩
  case placeSeat => exact ⟨_, rfl, Cx.command_work fun _ _ _ => Pu.placeBody_work⟩
  case vacateSeat => exact ⟨_, rfl, Cx.command_work fun _ _ _ => Pu.vacateBody_work⟩
  case readSeat => exact ⟨_, rfl, Cx.command_work fun _ _ _ => Pu.readBody_work⟩
  case openEdit => exact ⟨_, rfl, Cx.command_work fun _ _ _ => Cu.openBody_work⟩
  case writeBank => exact ⟨_, rfl, Cx.command_work fun _ _ _ => Cu.writeBody_work⟩
  case readPending => exact ⟨_, rfl, Cx.command_work fun _ _ _ => Cu.readBody_work⟩
  case releaseEdit => exact ⟨_, rfl, Cx.command_work fun _ _ _ => Cu.releaseBody_work⟩
  case commitRecord => exact ⟨_, rfl, Cx.command_work fun _ _ _ => Cu.commitBody_work⟩
  case groupAdd => exact ⟨_, rfl, Cx.command_work fun _ _ _ => Cu.groupAddBody_work⟩
  case groupRemove => exact ⟨_, rfl, Cx.command_work fun _ _ _ => Cu.groupRemoveBody_work⟩
  case groupClear => exact ⟨_, rfl, Cx.command_work fun _ _ _ => Cu.groupClearBody_work⟩
  case groupCommit => exact ⟨_, rfl, Cx.command_work fun _ _ _ => Cu.groupCommitBody_work⟩
  case queryCommit => exact ⟨_, rfl, Cx.command_work fun _ _ s => .refl s⟩
  case selectSource => exact ⟨_, rfl, Cx.command_safe fun _ _ _ => Ftu.selectBody_timed.bodied⟩
  case readTiming => exact ⟨_, rfl, Cx.command_work fun _ _ s => .refl s⟩
  case readIntegrity => exact ⟨_, rfl, Cx.command_work fun _ _ s => .refl s⟩
  case loadBegin => exact ⟨_, rfl, Cx.command_work fun _ _ _ => Bl.beginBody_work⟩
  case loadRecord => exact ⟨_, rfl, Cx.command_work fun _ _ _ => Bl.recordBody_work⟩
  case loadAbort => exact ⟨_, rfl, Cx.command_work fun _ _ _ => Bl.abortBody_work⟩
  case loadStatus => exact ⟨_, rfl, Cx.command_work fun _ _ s => .refl s⟩
  case readEvents => exact ⟨_, rfl, Cx.command_work fun _ _ s => .refl s⟩
  case clearEvents => exact ⟨_, rfl, Cx.command_work fun _ _ _ => Nu.clearBody_work⟩
  case setEventEnables => exact ⟨_, rfl, Cx.command_work fun _ _ _ => Nu.enableBody_work⟩
  case readCounters => exact ⟨_, rfl, Cx.command_work fun _ _ s => .refl s⟩
  case clearCounters => exact ⟨_, rfl, Cx.command_work fun _ _ _ => Nu.clearCountersBody_work⟩
  case reportArrival samples => exact ⟨_, rfl, (Trl.receive_work _).safe⟩
  case announce => exact ⟨_, rfl, (Pu.takeHead_work _).safe⟩
  case status => exact ⟨_, rfl, (Pu.takeHead_work _).safe⟩
  case lost => exact ⟨_, rfl, (Pu.takeHead_work _).safe⟩
  case frameRefPulse elapsed => exact ⟨_, rfl, ((State.advance_timed _).trans Ftu.pulse_timed).safe⟩
  case internalExpiry => exact ⟨_, rfl, Ftu.reachExpiry_timed.safe⟩
  case referenceLoss => exact ⟨_, rfl, Ftu.reachLoss_timed.safe⟩
  case holdExpired => exact ⟨_, rfl, Cu.expire_work.safe⟩
  case loadTimeout => exact ⟨_, rfl, Bl.timeout_work.safe⟩
  case seatStale => exact ⟨_, rfl, Pu.staleCheck_work.safe⟩
  case pixelBurst tag pix => exact ⟨_, rfl, (Cd.startBurst_work _ _).safe⟩
  case pixel pix => exact ⟨_, rfl, (Cd.laterPixel_work _).safe⟩

/-- The queue's rest stands behind a command. -/
theorem State.pending_safe {rest : List Instr} (h : ({ s with pending := rest } : State).Safe t) : s.Safe t := ⟨h.1, h.2, h.3, h.4, h.5, h.6, h.7⟩

theorem step_safe (s : State) : ∃ t, step s = .next t ∧ s.Safe t := by
  cases hp : s.pending with
  | nil => exact ⟨s.idle, by simp [step, hp], State.idle_timed.safe⟩
  | cons c rest =>
    obtain ⟨t, he, h⟩ := exec_safe c { s with pending := rest }
    exact ⟨t, by simp [step, hp, he], State.pending_safe h⟩

/-- A step that answers a next state answers that of `step_safe`. -/
theorem State.Safe.of_step (h : step s = .next t) : s.Safe t := by
  obtain ⟨u, hu, safe⟩ := step_safe s
  rw [hu] at h
  cases h
  exact safe

/-- Settles O56. -/
theorem everyStepKeepsTablesCanonical : Obligations.EveryStepKeepsTablesCanonical :=
  fun _ _ canonical h => (State.Safe.of_step h).canonical canonical

/-- Settles O58. -/
theorem everyStepKeepsGainsWithinTheLimit : Obligations.EveryStepKeepsGainsWithinTheLimit :=
  fun _ _ canonical directory within h => (State.Safe.of_step h).gains canonical directory within

/-- Settles O59. -/
theorem everyStepKeepsTimingSound : Obligations.EveryStepKeepsTimingSound :=
  fun _ _ sound h => (State.Safe.of_step h).sound sound

/-- Settles O60. -/
theorem everyStepKeepsTheBounds : Obligations.EveryStepKeepsTheBounds := fun s =>
  let ⟨t, h, safe⟩ := step_safe s
  ⟨t, h, safe.bounded, safe.counters, safe.params, safe.dither⟩

end Sys2Proof.Machine
end

section
/-! PROOF. What a read, a recompute and a condemnation leave of a record's directory fields: its identity and batch are those its index entry gives,
its seat is the one the Seat Table gives, and a state word that is whole is not rebuilt (R148 to R153). -/
namespace Sys2Proof.Machine

-- One declaration after another: as one text the file has more of them than it may have threads.
set_option Elab.async false

/-- Two records of one slot that agree in the directory's fields but the seat: pending damaged may have been set on a claimed bank, and a FREE slot is
as it was (R10, R104, R153). -/
structure Record.Filed (r r' : Record) : Prop where
  inUse : r'.inUse = r.inUse
  identity : r'.identity = r.identity
  batch : r'.batch = r.batch
  hold : r'.hold = r.hold
  condition : r'.condition = r.condition
  created : r'.createdByLoad = r.createdByLoad
  damaged : r.hold = .none → r'.pendingDamaged = r.pendingDamaged
  free : r.inUse = false → r' = r

theorem Record.Filed.refl (r : Record) : r.Filed r := ⟨rfl, rfl, rfl, rfl, rfl, rfl, fun _ => rfl, fun _ => rfl⟩

theorem Record.Filed.trans {a b c : Record} (h : a.Filed b) (k : b.Filed c) : a.Filed c :=
  ⟨k.1.trans h.1, k.2.trans h.2, k.3.trans h.3, k.4.trans h.4, k.5.trans h.5, k.6.trans h.6,
    fun hn => (k.7 (h.4.trans hn)).trans (h.7 hn), fun hu => (k.8 (h.1.trans hu)).trans (h.8 hu)⟩

/-- For a record in use the last clause asks nothing. -/
theorem Record.Filed.of_inUse {r r' : Record} (hu : r.inUse = true) (inUse : r'.inUse = true) (identity : r'.identity = r.identity := by exact rfl)
    (batch : r'.batch = r.batch := by exact rfl) (hold : r'.hold = r.hold := by exact rfl)
    (condition : r'.condition = r.condition := by exact rfl) (created : r'.createdByLoad = r.createdByLoad := by exact rfl)
    (damaged : r.hold = .none → r'.pendingDamaged = r.pendingDamaged := by exact fun _ => rfl) : r.Filed r' :=
  ⟨inUse.trans hu.symm, identity, batch, hold, condition, created, damaged, fun h => by rw [hu] at h; cases h⟩

/-- Work on a slot in use whose index entry is right: the record is filed as before, at its seat or at the one the Seat Table gives. -/
def Store.FiledAt (cx : Ctx) (slot : Nat) (st st' : Store) : Prop :=
  Table.wf Record.blank st.records → (st.get slot).inUse = true →
    identityOfSlot cx.index slot = some ((st.get slot).identity, (st.get slot).batch) →
    Table.wf Record.blank st'.records ∧ (st.get slot).Filed (st'.get slot) ∧
      ((st'.get slot).seat = (st.get slot).seat ∨ (st'.get slot).seat = seatOfSlot cx.seats slot)

namespace Store.FiledAt

variable {cx : Ctx} {slot : Nat} {st st' st'' : Store}

theorem of_records (h : st'.records = st.records) : Store.FiledAt cx slot st st' := fun w _ _ => by
  rw [show st'.get slot = st.get slot by rw [Store.get, h]; rfl, h]
  exact ⟨w, .refl _, .inl rfl⟩

theorem put {r : Record} (h : (st.get slot).inUse = true →
    identityOfSlot cx.index slot = some ((st.get slot).identity, (st.get slot).batch) →
    (st.get slot).Filed r ∧ (r.seat = (st.get slot).seat ∨ r.seat = seatOfSlot cx.seats slot)) :
    Store.FiledAt cx slot st (st.put slot r) := fun w hu hi => by
  rw [Store.get_put_same w]
  exact ⟨Table.wf_set w, h hu hi⟩

theorem trans (h : Store.FiledAt cx slot st st') (k : Store.FiledAt cx slot st' st'') : Store.FiledAt cx slot st st'' := fun w hu hi => by
  obtain ⟨w', filed, seat⟩ := h w hu hi
  obtain ⟨w'', filed', seat'⟩ := k w' (filed.inUse.trans hu) (by rw [filed.identity, filed.batch]; exact hi)
  exact ⟨w'', filed.trans filed', seat'.elim (fun e => e ▸ seat) .inr⟩

theorem closure (cx : Ctx) (slot : Nat) : Store.Closure cx slot (Store.FiledAt cx slot) where
  refl _ := of_records rfl
  trans := trans
  damage _ _ := of_records rfl
  finding _ _ := of_records rfl
  count _ _ _ := of_records rfl
  suspected _ := of_records rfl
  suspect _ := put fun hu _ => ⟨.of_inUse hu rfl, .inl rfl⟩
  rebuilt _ _ := put fun hu _ => ⟨.of_inUse hu rfl, .inr rfl⟩
  named st x b hx := put fun hu hi => by
    rw [hx] at hi
    cases hi
    exact ⟨.of_inUse hu hu, .inl rfl⟩
  cleared _ := put fun hu _ => ⟨.of_inUse hu hu, .inl rfl⟩
  retarget st after bank := by
    have written : Store.FiledAt cx slot st (st.put slot (Record.retargeted cx.limit after bank (st.get slot))) := put fun hu _ => by
      cases after <;> exact ⟨.of_inUse hu hu, .inl rfl⟩
    simp only [Dt.retarget]
    split
    · exact written.trans (of_records rfl)
    · exact written
  zeroed st b _ := put fun hu _ => by
    cases (st.get slot).pendingIx <;> exact ⟨.of_inUse hu hu, .inl rfl⟩
  marked st hm := put fun hu _ => ⟨.of_inUse hu hu (damaged := fun h => absurd h hm), .inl rfl⟩

end Store.FiledAt

/-! ### A state word that is whole stays whole -/

/-- Work on a slot whose state word holds no uncorrectable error leaves it so, and the record at its seat (R152). -/
def Store.SeatKept (slot : Nat) (st st' : Store) : Prop :=
  Table.wf Record.blank st.records → st.doubles slot isStateWord = [] →
    Table.wf Record.blank st'.records ∧ st'.doubles slot isStateWord = [] ∧ (st'.get slot).seat = (st.get slot).seat

namespace Store.SeatKept

variable {slot : Nat} {st st' : Store}

theorem of_filter {keep : Damage → Bool} (hr : st'.records = st.records) (hd : st'.damage = st.damage.filter keep) :
    st.SeatKept slot st' := fun w whole => by
  rw [show st'.get slot = st.get slot by rw [Store.get, hr]; rfl, hr]
  refine ⟨w, List.eq_nil_iff_forall_not_mem.2 fun d h => ?_, rfl⟩
  obtain ⟨h1, h2, h3, h4⟩ := Store.mem_doubles.1 h
  exact List.not_mem_nil (whole ▸ Store.mem_doubles.2 ⟨(List.mem_filter.1 (hd ▸ h1)).1, h2, h3, h4⟩)

theorem of_records (hr : st'.records = st.records) (hd : st'.damage = st.damage) : st.SeatKept slot st' :=
  of_filter (keep := fun _ => true) hr (by rw [hd, List.filter_true])

theorem put {r : Record} (h : r.seat = (st.get slot).seat) : st.SeatKept slot (st.put slot r) := fun w whole => by
  rw [Store.get_put_same w]
  exact ⟨Table.wf_set w, whole, h⟩

theorem closure (cx : Ctx) (slot : Nat) : Store.Closure cx slot (Store.SeatKept slot) where
  refl _ := of_records rfl rfl
  trans h k := fun w whole => by
    obtain ⟨w, whole, seat⟩ := h w whole
    obtain ⟨w, whole, seat'⟩ := k w whole
    exact ⟨w, whole, seat'.trans seat⟩
  damage _ _ := of_filter rfl rfl
  finding _ _ := of_records rfl rfl
  count _ _ _ := of_records rfl rfl
  suspected _ := of_records rfl rfl
  suspect _ := put rfl
  rebuilt _ hd := fun _ whole => absurd whole hd
  named _ _ _ _ := put rfl
  cleared _ := put rfl
  retarget st after bank := fun w whole => by
    refine ⟨(Dt.retarget_local after bank).wf w, ?_, ?_⟩
    · simp only [Dt.retarget]
      split <;> exact whole
    · rw [Dt.get_retarget_same w]
      cases after <;> rfl
  zeroed st _ _ := put (by cases (st.get slot).pendingIx <;> rfl)
  marked _ _ := put rfl

end Store.SeatKept

section
variable {cx : Ctx} {slot : Nat} {st : Store} {rd : Reader} {sel : ArrayWord → Bool}

theorem Store.doubles_mend : (st.mend slot sel).doubles slot sel = [] :=
  List.eq_nil_iff_forall_not_mem.2 fun d h => by
    obtain ⟨h1, h2, h3, _⟩ := Store.mem_doubles.1 h
    have := (List.mem_filter.1 h1).2
    simp [h2, h3] at this

theorem Rt.rebuildState_wf (w : Table.wf Record.blank st.records) : Table.wf Record.blank (Rt.rebuildState cx slot st).records := Table.wf_set w

/-- A read of the state word leaves it without an uncorrectable error (R150, R152). -/
theorem Rt.read_stateWord (w : Table.wf Record.blank st.records) : (Rt.read cx rd slot isStateWord st).doubles slot isStateWord = [] := by
  have closed := Store.SeatKept.closure cx slot
  simp only [Rt.read]
  split
  · rename_i hf
    simp [Store.doubles, List.isEmpty_iff.1 hf]
  · split
    · assumption
    · rename_i hw
      split
      · obtain ⟨d, hd⟩ := List.exists_mem_of_ne_nil _ hw
        have found : ((st.correct slot isStateWord).doubles slot isStateWord).any (fun d => isStateWord d.word) = true :=
          List.any_eq_true.2 ⟨d, hd, (Store.mem_doubles.1 hd).2.2.1⟩
        simp only [Rt.consequences, found, Bool.or_true, Bool.true_or, if_true, Rt.condemn]
        generalize hb : Rt.rebuildState cx slot (Store.foundDouble cx rd slot _ _ (st.correct slot isStateWord)) = b
        have whole : b.doubles slot isStateWord = [] := hb ▸ Store.doubles_mend
        have wb : Table.wf Record.blank b.records := hb ▸ Rt.rebuildState_wf ((Store.Local.correct (slot := slot) isStateWord).wf w)
        exact (closed.thenIf (closed.thenIf (closed.thenIf (closed.trans (closed.thenIf (closed.refl b) (closed.rebuildIdentity b))
          (closed.suspected _)) (closed.recomputeFallback _ _)) (closed.pendingFound _ _)) (closed.reinitialise _) wb whole).2.1
      · exact Store.doubles_mend

/-- A read of a FREE slot leaves its record as it is (R148). -/
theorem Rt.read_free (hu : (st.get slot).inUse = false) : (Rt.read cx rd slot sel st).records = st.records := by
  simp only [Rt.read]
  split
  · rfl
  · have hr : (st.correct slot sel).records = st.records := by
      simp only [Store.correct]
      split <;> rfl
    split
    · exact hr
    · rw [if_neg (by rw [Store.correct_get, hu]; exact Bool.false_ne_true)]
      exact hr

end

end Sys2Proof.Machine
end

section
/-! PROOF. The directory of the record store in parts: pool, index and claims record by record, the seats, and the load; and the work on one slot that
leaves all of them in agreement (R1, R10, R12, R27, R104). -/
namespace Sys2Proof.Machine

-- One declaration after another: as one text the file has more of them than it may have threads.
set_option Elab.async false

variable {s t : State} {slot n : Nat}

/-! ### The parts of the directory -/

/-- A slot's record agrees with the ports' lists and sets (R104, R117, R122, R153). -/
structure State.ClaimAt (s : State) (n : Nat) : Prop where
  closed : (s.record n).hold = .none ↔ (s.record n).condition = .closed
  listed : ∀ p, n ∈ (s.port p).commitList ↔ (s.record n).hold = p.hold ∧ (s.record n).condition = .frozen
  scheduled : ∀ p, n ∈ (s.port p).scheduled ↔ (s.record n).hold = p.hold ∧ (s.record n).condition = .scheduled
  undamaged : (s.record n).hold = .none → (s.record n).pendingDamaged = false

/-- A slot's record agrees with the load (R104, R160, R163). -/
structure State.LoadAt (s : State) (n : Nat) : Prop where
  listed : n ∈ s.load.list ↔ (s.record n).hold = .load
  scheduled : n ∈ s.load.scheduled ↔ (s.record n).hold = .load ∧ (s.record n).condition = .scheduled
  created : (s.record n).createdByLoad = true → n ∈ s.load.list
  running : (s.record n).hold = .load → s.load.state = .active ∧ (s.record n).condition = .frozen ∨
    s.load.state = .committing ∧ (s.record n).condition = .scheduled

/-- The lists hold each slot once, and the sets are ascending (R117, R122, R160). -/
structure State.Lists (s : State) : Prop where
  commitList : ∀ p, (s.port p).commitList.Nodup
  scheduled : ∀ p, (s.port p).scheduled.Pairwise (· < ·)
  load : s.load.list.Nodup
  loadScheduled : s.load.scheduled.Pairwise (· < ·)

/-- The tables in their form, and pool, index and the ports' claims in agreement with the records. -/
structure State.Based (s : State) : Prop where
  canonical : s.canonical
  pool : s.pool
  indexed : s.indexed
  lists : s.Lists
  claims : ∀ n, s.ClaimAt n

/-- The whole directory of a state whose tables are in their form. -/
structure State.Filed (s : State) : Prop extends State.Based s where
  seated : s.seated
  loads : ∀ n, s.LoadAt n

theorem State.filed_iff : s.Filed ↔ s.canonical ∧ s.directory := by
  constructor
  · rintro ⟨⟨canonical, pool, indexed, lists, claims⟩, seated, loads⟩
    exact ⟨canonical, pool, indexed, seated, fun n => (claims n).closed, fun p => ⟨lists.commitList p, fun n => (claims n).listed p⟩,
      fun p => ⟨lists.scheduled p, fun n => (claims n).scheduled p⟩, ⟨lists.load, fun n => (loads n).listed⟩,
      ⟨lists.loadScheduled, fun n => (loads n).scheduled⟩, fun n => (claims n).undamaged, fun n => (loads n).created,
      fun n => (loads n).running⟩
  · rintro ⟨canonical, pool, indexed, seated, closed, listed, scheduled, loaded, loadScheduled, undamaged, created, running⟩
    exact ⟨⟨canonical, pool, indexed, ⟨fun p => (listed p).1, fun p => (scheduled p).1, loaded.1, loadScheduled.1⟩,
      fun n => ⟨closed n, fun p => (listed p).2 n, fun p => (scheduled p).2 n, undamaged n⟩⟩, seated,
      fun n => ⟨loaded.2 n, loadScheduled.2 n, created n, running n⟩⟩

/-- A slot in use lies below 2048, and a FREE one reads blank (R1). -/
theorem State.Based.lt (b : s.Based) (hu : (s.record n).inUse = true) : n < 2048 := by
  by_contra h
  rw [b.pool.2.2.2 n (by omega)] at hu
  cases hu

theorem State.Based.free (b : s.Based) (hu : (s.record n).inUse = false) : s.record n = Record.blank := b.pool.2.2.1 n hu

/-- A record with a seat, a hold or a mark of the load is in use. -/
theorem State.Based.inUse_of_seat (b : s.Based) {m : Nat} (h : (s.record n).seat = some m) : (s.record n).inUse = true := by
  by_contra hu
  rw [b.free (by simpa using hu)] at h
  cases h

theorem State.Based.inUse_of_hold (b : s.Based) (h : (s.record n).hold ≠ .none) : (s.record n).inUse = true := by
  by_contra hu
  rw [b.free (by simpa using hu)] at h
  exact h rfl

/-! ### The index and the seats, looked up by slot -/

/-- The index entry of a slot in use is that of its record (R10, R152). -/
theorem State.Based.identityOfSlot (b : s.Based) (hu : (s.record n).inUse = true) :
    identityOfSlot s.index n = some ((s.record n).identity, (s.record n).batch) := by
  obtain ⟨entries, records⟩ := b.indexed
  have listed : s.lookup (s.record n).identity = some ⟨n, (s.record n).batch⟩ := records n hu
  have wf : Table.wf none s.index := b.canonical.2.1
  obtain ⟨e, he, hk⟩ := List.mem_map.1 (Table.mem_keys_of_get (d := none) (t := s.index) (n := (s.record n).identity) (by
    rw [show Table.get none s.index _ = _ from listed]; nofun))
  have hv : e.2 = some ⟨n, (s.record n).batch⟩ := by rw [← Table.get_of_mem wf he, hk]; exact listed
  simp only [Machine.identityOfSlot]
  cases hf : s.index.find? fun e => e.2.elim false fun x => decide (x.slot = n) with
  | none => exact absurd (List.find?_eq_none.1 hf e he) (by simp [hv])
  | some f =>
    have found := List.find?_some hf
    have hg : s.lookup f.1 = f.2 := Table.get_of_mem wf (List.mem_of_find?_eq_some hf)
    obtain ⟨x, v⟩ := f
    cases v with
    | none => simp at found
    | some v =>
      simp only [Option.elim, decide_eq_true_eq] at found
      obtain ⟨_, hx, hb⟩ := entries x v hg
      rw [found] at hx hb
      simp [hx, hb]

/-- The first key of a canonical table whose value passes a test the default fails. -/
theorem Table.findKey_some {α : Type} [DecidableEq α] {d : α} {tab : Table α} {test : α → Bool} (ht : Table.wf d tab)
    (h : Table.findKey test tab = some n) : test (Table.get d tab n) = true := by
  simp only [Table.findKey, Option.map_eq_some_iff] at h
  obtain ⟨e, he, rfl⟩ := h
  rw [Table.get_of_mem ht (List.mem_of_find?_eq_some he)]
  exact List.find?_some (p := fun e : Nat × α => test e.2) he

theorem Table.findKey_none {α : Type} [DecidableEq α] {d : α} {tab : Table α} {test : α → Bool} (ht : Table.wf d tab) (hd : test d = false)
    (h : Table.findKey test tab = none) (n : Nat) : test (Table.get d tab n) = false := by
  simp only [Table.findKey, Option.map_eq_none_iff, List.find?_eq_none] at h
  by_cases hn : Table.get d tab n = d
  · rw [hn, hd]
  · obtain ⟨e, he, rfl⟩ := List.mem_map.1 (Table.mem_keys_of_get hn)
    rw [Table.get_of_mem ht he]
    simpa using h e he

/-- The seat the Seat Table gives a slot is the one its record names (R27, R152). -/
theorem State.seatOfSlot_eq (canonical : s.canonical) (seated : s.seated) (n : Nat) : seatOfSlot s.seats n = (s.record n).seat := by
  have wf : Table.wf Seat.vacant s.seats := canonical.2.2.2.1
  cases h : seatOfSlot s.seats n with
  | some m =>
    have := Table.findKey_some wf h
    exact ((seated m n).1 (of_decide_eq_true this)).symm
  | none =>
    cases hr : (s.record n).seat with
    | none => rfl
    | some m =>
      have := Table.findKey_none wf (by rfl) h m
      exact absurd ((seated m n).2 hr) (of_decide_eq_false this)

/-! ### States whose directories agree -/

/-- Two states that agree in pool, index, lists and load, and whose records are filed alike: in all that the directory looks at but the seats. -/
structure State.Same (s t : State) : Prop where
  records : ∀ n, (s.record n).Filed (t.record n)
  freeQueue : t.freeQueue = s.freeQueue
  lookup : ∀ x, t.lookup x = s.lookup x
  commitList : ∀ p, (t.port p).commitList = (s.port p).commitList
  scheduled : ∀ p, (t.port p).scheduled = (s.port p).scheduled
  loadList : t.load.list = s.load.list
  loadScheduled : t.load.scheduled = s.load.scheduled
  loadState : t.load.state = s.load.state

theorem State.Same.refl (s : State) : s.Same s := ⟨fun _ => .refl _, rfl, fun _ => rfl, fun _ => rfl, fun _ => rfl, rfl, rfl, rfl⟩

theorem State.Same.trans {u : State} (h : s.Same t) (k : t.Same u) : s.Same u :=
  ⟨fun n => (h.1 n).trans (k.1 n), k.2.trans h.2, fun x => (k.3 x).trans (h.3 x), fun p => (k.4 p).trans (h.4 p),
    fun p => (k.5 p).trans (h.5 p), k.6.trans h.6, k.7.trans h.7, k.8.trans h.8⟩

/-- States that differ in nothing the directory looks at but the seats. -/
theorem State.Same.of {s t : State} (records : t.store.records = s.store.records := by exact rfl)
    (freeQueue : t.freeQueue = s.freeQueue := by exact rfl) (index : t.index = s.index := by exact rfl)
    (commitA : t.portA.commitList = s.portA.commitList := by exact rfl) (commitB : t.portB.commitList = s.portB.commitList := by exact rfl)
    (scheduledA : t.portA.scheduled = s.portA.scheduled := by exact rfl) (scheduledB : t.portB.scheduled = s.portB.scheduled := by exact rfl)
    (loadList : t.load.list = s.load.list := by exact rfl) (loadScheduled : t.load.scheduled = s.load.scheduled := by exact rfl)
    (loadState : t.load.state = s.load.state := by exact rfl) : s.Same t where
  records n := by rw [show t.record n = s.record n by rw [State.record, Store.get, records]; rfl]; exact .refl _
  freeQueue := freeQueue
  lookup x := by rw [State.lookup, index]; rfl
  commitList p := by cases p <;> assumption
  scheduled p := by cases p <;> assumption
  loadList := loadList
  loadScheduled := loadScheduled
  loadState := loadState

theorem State.Same.inUse (h : s.Same t) (n : Nat) : (t.record n).inUse = (s.record n).inUse := (h.records n).inUse

theorem State.Same.claimAt (h : s.Same t) (c : s.ClaimAt n) : t.ClaimAt n := by
  have r := h.records n
  refine ⟨?_, fun p => ?_, fun p => ?_, fun hn => ?_⟩
  · rw [r.hold, r.condition]; exact c.closed
  · rw [h.commitList, r.hold, r.condition]; exact c.listed p
  · rw [h.scheduled, r.hold, r.condition]; exact c.scheduled p
  · rw [r.hold] at hn
    exact (r.damaged hn).trans (c.undamaged hn)

theorem State.Same.loadAt (h : s.Same t) (c : s.LoadAt n) : t.LoadAt n := by
  have r := h.records n
  refine ⟨?_, ?_, ?_, ?_⟩
  · rw [h.loadList, r.hold]; exact c.listed
  · rw [h.loadScheduled, r.hold, r.condition]; exact c.scheduled
  · rw [h.loadList, r.created]; exact c.created
  · rw [r.hold, r.condition, h.loadState]; exact c.running

theorem State.Same.lists (h : s.Same t) (l : s.Lists) : t.Lists :=
  ⟨fun p => h.commitList p ▸ l.commitList p, fun p => h.scheduled p ▸ l.scheduled p, h.loadList ▸ l.load, h.loadScheduled ▸ l.loadScheduled⟩

theorem State.Same.pool (h : s.Same t) (b : s.pool) : t.pool := by
  obtain ⟨nodup, mem, free, above⟩ := b
  refine ⟨h.freeQueue ▸ nodup, fun n => ?_, fun n hu => ?_, fun n hn => ?_⟩
  · rw [h.freeQueue, h.inUse]; exact mem n
  · rw [h.inUse] at hu
    exact ((h.records n).free hu).trans (free n hu)
  · have blank := above n hn
    exact ((h.records n).free (by rw [blank]; rfl)).trans blank

theorem State.Same.indexed (h : s.Same t) (b : s.indexed) : t.indexed := by
  refine ⟨fun x e he => ?_, fun n hu => ?_⟩
  · have r := h.records e.slot
    rw [r.inUse, r.identity, r.batch]
    exact b.1 x e (h.lookup x ▸ he)
  · have r := h.records n
    rw [r.identity, r.batch, h.lookup]
    exact b.2 n (r.inUse ▸ hu)

theorem State.Same.based (h : s.Same t) (c : s.canonical → t.canonical) (b : s.Based) : t.Based :=
  ⟨c b.canonical, h.pool b.pool, h.indexed b.indexed, h.lists b.lists, fun n => h.claimAt (b.claims n)⟩

theorem State.Same.loads (h : s.Same t) (l : ∀ n, s.LoadAt n) : ∀ n, t.LoadAt n := fun n => h.loadAt (l n)

/-- Seats and the records that name them, as before. -/
theorem State.seated_of (hr : ∀ n, (t.record n).seat = (s.record n).seat) (hs : ∀ n, (t.seat n).kind = (s.seat n).kind) (h : s.seated) :
    t.seated := fun n k => by
  rw [hr, hs]; exact h n k

/-! ### Work on one slot -/

/-- Work of the word protection and the Drift Tracker on one slot of a store: it keeps what all work keeps, changes its own slot alone, and leaves it
filed as the index and the Seat Table give it. -/
structure Store.Touches (cx : Ctx) (slot : Nat) (st st' : Store) : Prop where
  kept : st.Kept cx.limit st'
  own : st.Local slot st'
  filed : Store.FiledAt cx slot st st'
  free : (st.get slot).inUse = false → st'.get slot = st.get slot

namespace Store.Touches

variable {cx : Ctx} {st st' : Store}

theorem trans {st'' : Store} (h : Store.Touches cx slot st st') (k : Store.Touches cx slot st' st'') : Store.Touches cx slot st st'' :=
  ⟨h.kept.trans k.kept, h.own.trans k.own, h.filed.trans k.filed, fun hu => (k.free (h.free hu ▸ hu)).trans (h.free hu)⟩

theorem refl : Store.Touches cx slot st st := ⟨.refl _ _, .refl _ _, .of_records rfl, fun _ => rfl⟩

theorem read (rd : Reader) (sel : ArrayWord → Bool) : Store.Touches cx slot st (Rt.read cx rd slot sel st) :=
  ⟨(Store.Kept.closure cx slot).read _ _ _, Rt.read_local _ _, (Store.FiledAt.closure cx slot).read _ _ _,
    fun hu => Store.get_of_records (Rt.read_free hu) slot⟩

theorem recompute (after : After) (hu : (st.get slot).inUse = true) : Store.Touches cx slot st (Dt.recompute cx after slot st) :=
  ⟨(Store.Kept.closure cx slot).recompute _ _, Dt.recompute_local _, (Store.FiledAt.closure cx slot).recompute _ _,
    fun h => by rw [hu] at h; cases h⟩

/-- A change of fields of a record in use that neither the directory nor the gains look at. -/
theorem modify {f : Record → Record} (hu : (st.get slot).inUse = true)
    (kept : ∀ r : Record, r.within cx.limit → (f r).within cx.limit) (alike : ∀ r : Record, r.Alike (f r))
    (filed : ∀ r : Record, r.inUse = true → r.Filed (f r) ∧ (f r).seat = r.seat) : Store.Touches cx slot st (st.modify slot f) :=
  ⟨.modify kept, .modify (alike _), .put fun hu _ => ⟨(filed _ hu).1, .inl (filed _ hu).2⟩, fun h => by rw [hu] at h; cases h⟩

theorem inUse (h : Store.Touches cx slot st st') (w : Table.wf Record.blank st.records) (hu : (st.get slot).inUse = true) :
    (st'.get slot).inUse = true := (h.own.own w).inUse.trans hu

theorem invalidate (w : Table.wf Record.blank st.records) (hu : (st.get slot).inUse = true) :
    Store.Touches cx slot st (Dt.invalidate cx slot st) :=
  have first := read (cx := cx) (slot := slot) (st := st) .dt isReadingWord
  first.trans (modify (first.inUse w hu) (fun _ => Record.within_of_eq rfl rfl) (fun _ => ⟨rfl, rfl, rfl, rfl, rfl, rfl, rfl, rfl, rfl⟩)
    fun _ hu => ⟨.of_inUse hu hu, rfl⟩)

theorem slewRecord (step : Nat) (hu : (st.get slot).inUse = true) : Store.Touches cx slot st (Dt.slewRecord cx step slot st) :=
  ⟨(Store.Kept.closure cx slot).slewRecord _ _ fun _ => .modify fun _ => Record.within_slewed, Dt.slewRecord_local _,
    (Store.FiledAt.closure cx slot).slewRecord _ _ fun _ => .put fun hu _ => ⟨.of_inUse hu hu, .inl rfl⟩, fun h => by rw [hu] at h; cases h⟩

theorem clampApplied (hu : (st.get slot).inUse = true) : Store.Touches cx slot st (Dt.clampApplied cx slot st) :=
  ⟨(Store.Kept.closure cx slot).clampApplied _ fun _ => .modify fun r h =>
      Record.within_iff.2 ⟨(Record.within_iff.1 h).1, Record.appliedWithin_clamped _ r⟩, Dt.clampApplied_local,
    (Store.FiledAt.closure cx slot).clampApplied _ fun _ => .put fun hu _ => ⟨.of_inUse hu hu, .inl rfl⟩, fun h => by rw [hu] at h; cases h⟩

end Store.Touches

/-- Work on one slot of a state. -/
structure State.Touches (s : State) (slot : Nat) (t : State) : Prop where
  work : s.Work t
  same : s.Same t
  other : ∀ n, n ≠ slot → t.record n = s.record n
  seat : (t.record slot).seat = (s.record slot).seat ∨ (t.record slot).seat = seatOfSlot s.seats slot
  seats : t.seats = s.seats

theorem State.Touches.of_store {st : Store} (h : Store.Touches s.ctx slot s.store st) (b : s.Based) :
    s.Touches slot { s with store := st } := by
  have own : (s.record slot).Filed (st.get slot) ∧ ((st.get slot).seat = (s.record slot).seat ∨
      (st.get slot).seat = seatOfSlot s.seats slot) := by
    cases hu : (s.record slot).inUse
    · rw [h.free hu]; exact ⟨.refl _, .inl rfl⟩
    · exact (h.filed b.canonical.1 hu (b.identityOfSlot hu)).2
  refine ⟨.of (store := h.kept), ⟨fun n => ?_, rfl, fun _ => rfl, fun p => by cases p <;> rfl, fun p => by cases p <;> rfl, rfl, rfl, rfl⟩,
    fun n hn => h.own.other n hn, own.2, rfl⟩
  by_cases hn : n = slot
  · subst hn; exact own.1
  · rw [show State.record { s with store := st } n = s.record n from h.own.other n hn]; exact .refl _

theorem State.Touches.trans {u : State} (h : s.Touches slot t) (k : t.Touches slot u) : s.Touches slot u :=
  ⟨h.work.trans k.work, h.same.trans k.same, fun n hn => (k.other n hn).trans (h.other n hn),
    k.seat.elim (fun e => e ▸ h.seat) fun e => .inr (h.seats ▸ e), k.seats.trans h.seats⟩

theorem State.Touches.refl (s : State) (slot : Nat) : s.Touches slot s := ⟨.refl s, .refl s, fun _ _ => rfl, .inl rfl, rfl⟩

theorem State.Touches.based (h : s.Touches slot t) (b : s.Based) : t.Based := h.same.based h.work.canonical b

theorem State.Touches.seat_eq (h : s.Touches slot t) (n : Nat) : (t.seat n).kind = (s.seat n).kind := by
  rw [State.seat, h.seats]; rfl

/-- Where the seats agree with the records, they do so afterwards. -/
theorem State.Touches.seat_same (h : s.Touches slot t) (canonical : s.canonical) (seated : s.seated) (n : Nat) :
    (t.record n).seat = (s.record n).seat := by
  by_cases hn : n = slot
  · subst hn
    exact h.seat.elim id fun e => e.trans (State.seatOfSlot_eq canonical seated n)
  · rw [h.other n hn]

theorem State.Touches.seated (h : s.Touches slot t) (canonical : s.canonical) (seated : s.seated) : t.seated :=
  State.seated_of (h.seat_same canonical seated) h.seat_eq seated

theorem State.Touches.filed (h : s.Touches slot t) (f : s.Filed) : t.Filed :=
  ⟨h.based f.toBased, h.seated f.canonical f.seated, h.same.loads f.loads⟩

theorem State.read_touches (b : s.Based) (rd : Reader) (sel : ArrayWord → Bool) : s.Touches slot (s.read rd slot sel) := .of_store (.read _ _) b

theorem State.invalidate_touches (b : s.Based) (hu : (s.record slot).inUse = true) : s.Touches slot (s.invalidate slot) :=
  .of_store (.invalidate b.canonical.1 hu) b

theorem State.recompute_touches (b : s.Based) (after : After) (hu : (s.record slot).inUse = true) :
    s.Touches slot (s.onStore fun cx st => Dt.recompute cx after slot st) := .of_store (.recompute _ hu) b

/-- A change of fields of a record in use that neither the directory nor the gains look at. -/
theorem State.modify_touches {f : Record → Record} (b : s.Based) (hu : (s.record slot).inUse = true)
    (filed : (s.record slot).Filed (f (s.record slot)) ∧ (f (s.record slot)).seat = (s.record slot).seat)
    (ht : (f (s.record slot)).target = (s.record slot).target := by exact rfl)
    (ha : (f (s.record slot)).applied = (s.record slot).applied := by exact rfl) :
    s.Touches slot (s.modify slot f) := by
  have wf := b.canonical.1
  refine ⟨.modifyOf ht ha, ⟨fun n => ?_, rfl, fun _ => rfl, fun p => by cases p <;> rfl, fun p => by cases p <;> rfl, rfl, rfl, rfl⟩,
    fun n hn => State.record_modify_ne s hn, .inl ?_, rfl⟩
  · by_cases hn : n = slot
    · subst hn; rw [State.record_modify_same s wf]; exact filed.1
    · rw [State.record_modify_ne s hn]; exact .refl _
  · rw [State.record_modify_same s wf]; exact filed.2

/-- Work on every record in use, one after another. -/
theorem State.Filed.eachInUse {f : Nat → Store → Store} (h : s.Filed)
    (hf : ∀ n acc, (acc.get n).inUse = true → Table.wf Record.blank acc.records → Store.Touches s.ctx n acc (f n acc)) :
    State.Filed { s with store := s.store.eachInUse f } := by
  have each : State.Filed { s with store := s.store.eachInUse f } ∧ s.Same { s with store := s.store.eachInUse f } := by
    refine foldl_keep (P := fun acc => State.Filed { s with store := acc } ∧ s.Same { s with store := acc }) s.store.inUseSlots
      (fun acc n hn ⟨filed, same⟩ => ?_) ⟨h, .refl s⟩
    have hu : (acc.get n).inUse = true := (same.inUse n).trans (Store.mem_inUseSlots.1 hn)
    have touch := State.Touches.of_store (s := { s with store := acc }) (hf n acc hu filed.canonical.1) filed.toBased
    exact ⟨touch.filed filed, same.trans touch.same⟩
  exact each.1

end Sys2Proof.Machine
end

section
/-! PROOF. The Presence Unit's operations leave the seats and the records in agreement (R27, R29, R34, R37, R39, R47). -/
namespace Sys2Proof.Machine

-- One declaration after another: as one text the file has more of them than it may have threads.
set_option Elab.async false

variable {s u : State} {slot seat : Nat}

/-! ### Updates that the directory does not look at -/

/-- A state whose tables are in their form and that differs from one filed in nothing the directory looks at. -/
theorem State.Filed.of {t : State} (f : s.Filed) (canonical : s.canonical → t.canonical) (records : t.store.records = s.store.records := by exact rfl)
    (seats : t.seats = s.seats := by exact rfl) (freeQueue : t.freeQueue = s.freeQueue := by exact rfl)
    (index : t.index = s.index := by exact rfl)
    (commitA : t.portA.commitList = s.portA.commitList := by exact rfl) (commitB : t.portB.commitList = s.portB.commitList := by exact rfl)
    (scheduledA : t.portA.scheduled = s.portA.scheduled := by exact rfl) (scheduledB : t.portB.scheduled = s.portB.scheduled := by exact rfl)
    (loadList : t.load.list = s.load.list := by exact rfl) (loadScheduled : t.load.scheduled = s.load.scheduled := by exact rfl)
    (loadState : t.load.state = s.load.state := by exact rfl) : t.Filed :=
  have same : s.Same t := .of records freeQueue index commitA commitB scheduledA scheduledB loadList loadScheduled loadState
  ⟨same.based canonical f.toBased,
    State.seated_of (fun n => by rw [State.record, Store.get, records]; rfl) (fun n => by rw [State.seat, seats]; rfl) f.seated, same.loads f.loads⟩

theorem State.Filed.onNu (f : s.Filed) (g : Nu → Nu) : (s.onNu g).Filed := f.of id

theorem State.Filed.ite {t : State} {c : Prop} [Decidable c] (h : c → t.Filed) (k : ¬ c → u.Filed) : (if c then t else u).Filed := by
  split
  · exact h ‹_›
  · exact k ‹_›

/-- A seat's entry written with the kind it had. -/
theorem State.Filed.setSeat_kind {n : Nat} (f : s.Filed) {e : Seat} (he : e.kind = (s.seat n).kind) : (s.setSeat n e).Filed := by
  have wf : Table.wf Seat.vacant s.seats := f.canonical.2.2.2.1
  have same : s.Same (s.setSeat n e) := .of
  refine ⟨same.based (State.Work.setSeat n e).canonical f.toBased, State.seated_of (s := s) (fun _ => rfl) (fun m => ?_) f.seated,
    same.loads f.loads⟩
  by_cases hm : m = n
  · subst hm; rw [State.seat_setSeat_same s wf, he]
  · rw [State.seat_setSeat_ne s hm]

/-- Every entry changed but in its kind. -/
theorem Pu.mapSeats_filed (f : s.Filed) {g : Nat → Seat → Seat} (due : Bool) (hg : ∀ n e, (g n e).kind = e.kind)
    (hv : ∀ n, g n Seat.vacant = Seat.vacant) :
    State.Filed { s with seats := Table.mapEntries Seat.vacant g s.seats, seatCheckDue := due } := by
  have wf : Table.wf Seat.vacant s.seats := f.canonical.2.2.2.1
  have same : s.Same { s with seats := Table.mapEntries Seat.vacant g s.seats, seatCheckDue := due } := .of
  refine ⟨same.based (Pu.mapSeats_work g due).canonical f.toBased, State.seated_of (s := s) (fun _ => rfl) (fun m => ?_) f.seated,
    same.loads f.loads⟩
  exact (congrArg Seat.kind (Table.get_mapEntries (hv m) wf)).trans (hg m _)

theorem Pu.gap_filed (f : s.Filed) (distPort : Nat) : (Pu.gap distPort s).Filed :=
  Pu.mapSeats_filed f _ (fun n e => by simp only [Seat.gapped]; split <;> [split; skip] <;> rfl)
    (fun n => by simp only [Seat.gapped]; split <;> rfl)

theorem Pu.age_filed (f : s.Filed) : (Pu.age s).Filed :=
  Pu.mapSeats_filed f _ (fun n e => by simp only [Seat.aged]; split <;> rfl) (fun n => rfl)

theorem Pu.staleCheck_filed (f : s.Filed) : (Pu.staleCheck s).Filed := by
  refine .ite (fun _ => ?_) fun _ => f
  have checked : State.Filed { s with
      seats := Table.mapEntries Seat.vacant (fun _ e => if e.goesStale s.params.statusTimeout then { e with fresh := .stale } else e) s.seats
      seatCheckDue := false } :=
    Pu.mapSeats_filed f _ (fun n e => by split <;> rfl) (fun n => rfl)
  exact .ite (fun _ => checked.onNu _) fun _ => checked

/-! ### A record that changes its seat -/

/-- Work on one slot after which its record names a given seat. -/
structure State.Moves (s : State) (slot : Nat) (seat : Option Nat) (t : State) : Prop where
  work : s.Work t
  same : s.Same t
  other : ∀ n, n ≠ slot → t.record n = s.record n
  seat : (t.record slot).seat = seat
  seats : t.seats = s.seats

/-- A write of the state word that leaves the record filed and names a seat (R148). -/
theorem State.writeStateWord_moves (b : s.Based) (hu : (s.record slot).inUse = true) (rd : Reader) {f : Record → Record} {place : Option Nat}
    (filed : ∀ r : Record, r.inUse = true → r.Filed (f r)) (hs : ∀ r, (f r).seat = place) (ht : ∀ r, (f r).target = r.target)
    (ha : ∀ r, (f r).applied = r.applied) :
    s.Moves slot place (s.writeStateWord rd slot f) ∧ (s.writeStateWord rd slot f).store.doubles slot isStateWord = [] := by
  have touch := State.read_touches (slot := slot) b rd isStateWord
  have hu' := (touch.same.inUse slot).trans hu
  have wf := (touch.based b).canonical.1
  have own : (s.writeStateWord rd slot f).record slot = f ((s.read rd slot isStateWord).record slot) := State.record_modify_same _ wf
  have others : ∀ n, n ≠ slot → (s.writeStateWord rd slot f).record n = (s.read rd slot isStateWord).record n :=
    fun n hn => State.record_modify_ne _ hn
  refine ⟨⟨.writeStateWord rd slot ht ha, touch.same.trans ⟨fun n => ?_, rfl, fun _ => rfl, fun p => by cases p <;> rfl,
    fun p => by cases p <;> rfl, rfl, rfl, rfl⟩, fun n hn => (others n hn).trans (touch.other n hn), by rw [own, hs], touch.seats⟩,
    Rt.read_stateWord b.canonical.1⟩
  by_cases hn : n = slot
  · subst hn; rw [own]; exact filed _ hu'
  · rw [others n hn]; exact .refl _

/-- A record that leaves its seat is ABSENT afterwards: its state word, just written, is not rebuilt when its temperature is made INVALID (R37, R87). -/
theorem Pu.makeAbsent_moves (b : s.Based) (hu : (s.record slot).inUse = true) : s.Moves slot none (Pu.makeAbsent slot s) := by
  obtain ⟨moved, whole⟩ := State.writeStateWord_moves b hu .pu (f := fun r => { r with seat := none }) (place := none)
    (fun r hr => .of_inUse hr hr) (fun _ => rfl) (fun _ => rfl) fun _ => rfl
  have b' := moved.same.based moved.work.canonical b
  have touch := State.invalidate_touches b' ((moved.same.inUse slot).trans hu)
  have kept := (Store.SeatKept.closure (s.writeStateWord .pu slot fun r => { r with seat := none }).ctx slot).invalidate _
    (fun _ => Store.SeatKept.put rfl) b'.canonical.1 whole
  exact ⟨moved.work.trans touch.work, moved.same.trans touch.same, fun n hn => (touch.other n hn).trans (moved.other n hn),
    kept.2.2.trans moved.seat, touch.seats.trans moved.seats⟩

/-- What a displacement at a seat leaves, where all records but one agree with the seats: the record kept is as it was, and of the others none names
the seat (R37). -/
structure Pu.Displaced (s : State) (seat : Nat) (keep : Option Nat) (t : State) : Prop where
  work : s.Work t
  same : s.Same t
  seats : t.seats = s.seats
  kept : ∀ k, keep = some k → t.record k = s.record k
  others : ∀ n k, keep ≠ some k → ((t.record k).seat = some n ↔ n ≠ seat ∧ (s.seat n).kind = .placed k)

theorem Pu.displace_displaced {keep : Option Nat} (b : s.Based)
    (h : ∀ n k, keep ≠ some k → ((s.seat n).kind = .placed k ↔ (s.record k).seat = some n)) :
    Pu.Displaced s seat keep (Pu.displace seat keep s) := by
  have unmoved : (∀ k, keep ≠ some k → (s.seat seat).kind ≠ .placed k) → Pu.Displaced s seat keep s := fun hk =>
    ⟨.refl s, .refl s, rfl, fun _ _ => rfl, fun n k hkeep => by
      rw [← h n k hkeep]
      exact ⟨fun hp => ⟨fun hn => hk k hkeep (hn ▸ hp), hp⟩, fun hp => hp.2⟩⟩
  simp only [Pu.displace]
  split
  · rename_i slot hkind
    split
    · rename_i hkeep
      refine unmoved fun k hk hp => hk ?_
      rw [hkind] at hp
      cases hp
      exact hkeep
    · rename_i hkeep
      have hseat := (h seat slot hkeep).1 hkind
      have moved := Pu.makeAbsent_moves b (b.inUse_of_seat hseat)
      refine ⟨moved.work, moved.same, moved.seats, fun k hk => moved.other k fun e => hkeep (e ▸ hk), fun n k hk => ?_⟩
      by_cases he : k = slot
      · subst he
        rw [moved.seat, h n k hk, hseat]
        exact ⟨nofun, fun ⟨hne, heq⟩ => absurd (Option.some.inj heq).symm hne⟩
      · rw [moved.other k he, ← h n k hk]
        exact ⟨fun hp => ⟨fun hn => by rw [hn, hkind] at hp; cases hp; exact he rfl, hp⟩, fun hp => hp.2⟩
  · rename_i hno
    exact unmoved fun k _ hp => hno k hp

/-- A seat displaced and left without a record: VACANT, or UNRECORDED (R33, R36, R39, R47). -/
theorem Pu.displace_setSeat_filed (f : s.Filed) {e : Seat} (he : ∀ k, e.kind ≠ .placed k) :
    ((Pu.displace seat none s).setSeat seat e).Filed := by
  have moved := Pu.displace_displaced (seat := seat) (keep := none) f.toBased fun n k _ => f.seated n k
  have same : s.Same ((Pu.displace seat none s).setSeat seat e) := moved.same.trans .of
  have work := moved.work.trans (State.Work.setSeat seat e)
  have wf : Table.wf Seat.vacant (Pu.displace seat none s).seats := (moved.work.canonical f.canonical).2.2.2.1
  refine ⟨same.based work.canonical f.toBased, fun n k => ?_, same.loads f.loads⟩
  rw [show ((Pu.displace seat none s).setSeat seat e).record k = (Pu.displace seat none s).record k from rfl, moved.others n k nofun]
  by_cases hn : n = seat
  · subst hn
    rw [State.seat_setSeat_same _ wf]
    exact ⟨fun h => absurd h (he k), fun h => absurd rfl h.1⟩
  · rw [State.seat_setSeat_ne _ hn, State.seat, moved.seats]
    exact ⟨fun h => ⟨hn, h⟩, fun h => h.2⟩

theorem Pu.empty_filed (f : s.Filed) : (Pu.empty seat s).Filed := Pu.displace_setSeat_filed f nofun

theorem Pu.unrecorded_filed (f : s.Filed) (identity batch : Nat) (c : Counter) (e : Event) : (Pu.unrecorded seat identity batch c e s).Filed :=
  have placed := Pu.displace_setSeat_filed (seat := seat) (e := ⟨.unrecorded identity batch, .reported, .fresh, 0⟩) f nofun
  .ite (fun _ => placed) fun _ => (placed.onNu _).onNu _

/-- A record written as standing at a seat, and the seat as PLACED with it, where no other record and no other seat claims either. -/
theorem State.Moves.setSeat_filed {t : State} (f : s.Filed) (before : s.Same u) (b : u.Based) (moved : u.Moves slot (some seat) t)
    {e : Seat} (he : e.kind = .placed slot)
    (others : ∀ n k, k ≠ slot → ((u.record k).seat = some n ↔ n ≠ seat ∧ (u.seat n).kind = .placed k))
    (elsewhere : ∀ n, n ≠ seat → (u.seat n).kind ≠ .placed slot) : (t.setSeat seat e).Filed := by
  have same : s.Same (t.setSeat seat e) := before.trans (moved.same.trans .of)
  have b' := moved.same.based moved.work.canonical b
  have wf : Table.wf Seat.vacant t.seats := b'.canonical.2.2.2.1
  have kinds : ∀ n, n ≠ seat → (t.setSeat seat e).seat n = u.seat n := fun n hn => by
    rw [State.seat_setSeat_ne _ hn, State.seat, moved.seats]; rfl
  refine ⟨(State.Same.of (s := t)).based (State.Work.setSeat seat e).canonical b', fun n k => ?_, same.loads f.loads⟩
  show ((t.setSeat seat e).seat n).kind = .placed k ↔ (t.record k).seat = some n
  by_cases hk : k = slot
  · subst hk
    rw [moved.seat]
    by_cases hn : n = seat
    · subst hn; rw [State.seat_setSeat_same _ wf, he]; exact ⟨fun _ => rfl, fun _ => rfl⟩
    · rw [kinds n hn]
      exact ⟨fun h => absurd h (elsewhere n hn), fun h => absurd (Option.some.inj h).symm hn⟩
  · rw [moved.other k hk, others n k hk]
    by_cases hn : n = seat
    · subst hn
      rw [State.seat_setSeat_same _ wf, he]
      exact ⟨fun h => absurd (SeatKind.placed.inj h).symm hk, fun h => absurd rfl h.1⟩
    · rw [kinds n hn]
      exact ⟨fun h => ⟨hn, h⟩, fun h => h.2⟩

/-- A record placed at a seat by an arrival, where it stands nowhere else (R37). -/
theorem Pu.seatArrival_filed (f : s.Filed) (before : s.Same u) (b : u.Based) (hu : (u.record slot).inUse = true)
    (others : ∀ n k, k ≠ slot → ((u.seat n).kind = .placed k ↔ (u.record k).seat = some n))
    (elsewhere : ∀ n, n ≠ seat → (u.seat n).kind ≠ .placed slot) :
    (Pu.seatArrival seat slot u).Filed ∧ s.Same (Pu.seatArrival seat slot u) := by
  have displaced := Pu.displace_displaced (seat := seat) (keep := some slot) b fun n k hk => others n k fun h => hk (h ▸ rfl)
  have b' := displaced.same.based displaced.work.canonical b
  obtain ⟨moved, _⟩ := State.writeStateWord_moves b' ((displaced.same.inUse slot).trans hu) .pu
    (f := fun r => { r with seat := some seat, lastSeen := (Pu.displace seat (some slot) u).ftu.frameCount }) (place := some seat)
    (fun r hr => .of_inUse hr hr) (fun _ => rfl) (fun _ => rfl) fun _ => rfl
  have kinds : ∀ n, ((Pu.displace seat (some slot) u).seat n) = u.seat n := fun n => by rw [State.seat, displaced.seats]; rfl
  exact ⟨moved.setSeat_filed f (before.trans displaced.same) b' rfl
    (fun n k hk => by rw [kinds n]; exact displaced.others n k fun h => hk (Option.some.inj h).symm)
    fun n hn => by rw [kinds n]; exact elsewhere n hn, (before.trans displaced.same).trans (moved.same.trans .of)⟩

/-! ### Offers and arrivals -/

theorem Dt.countOffer_filed (f : s.Filed) : (Dt.countOffer s).Filed := by
  refine .ite (fun _ => f) fun _ => .ite (fun _ => ?_) fun _ => f.of id
  exact State.Filed.onNu (s := { s with driftCounter := 0 }) (f.of id) _

/-- An offer leaves the directory in agreement (R85). -/
theorem Dt.offer_filed (f : s.Filed) (hu : (s.record slot).inUse = true) (temperature : Option Int) (hours : Nat) (counts : Bool) :
    (Dt.offer slot temperature hours counts s).Filed := by
  have first := State.read_touches (slot := slot) f.toBased .dt isDriftWord
  have hu1 := (first.same.inUse slot).trans hu
  have second := State.modify_touches (f := fun _ => ((s.read .dt slot isDriftWord).record slot).offered temperature hours)
    (first.based f.toBased) hu1 ⟨.of_inUse hu1 hu1, rfl⟩
  have taken := second.filed (first.filed f)
  have hu2 := (second.same.inUse slot).trans hu1
  simp only [Dt.offer]
  generalize (s.read .dt slot isDriftWord).modify slot _ = a at taken hu2
  generalize hc : (if hours < ((s.read .dt slot isDriftWord).record slot).hours then a.count .hoursRegressed else a) = c
  have counted : c.Filed ∧ (c.record slot).inUse = true := by
    rw [← hc]
    split
    · exact ⟨taken.onNu _, hu2⟩
    · exact ⟨taken, hu2⟩
  have recomputed := (State.recompute_touches counted.1.toBased .slew counted.2).filed counted.1
  exact .ite (fun _ => .ite (fun _ => Dt.countOffer_filed recomputed) fun _ => recomputed) fun _ => counted.1

/-- The arrival of a record at a seat, from wherever it stood (R34, R35, R37). -/
theorem Pu.arriveAt_filed (f : s.Filed) (before : s.Same u) (b : u.Based) (hu : (u.record slot).inUse = true)
    (others : ∀ n k, k ≠ slot → ((u.seat n).kind = .placed k ↔ (u.record k).seat = some n))
    (elsewhere : ∀ n, n ≠ seat → (u.seat n).kind ≠ .placed slot) (temperature : Option Int) (hours : Nat) (counts : Bool) :
    (Dt.offer slot temperature hours counts (Pu.seatArrival seat slot u)).Filed := by
  obtain ⟨placed, same⟩ := Pu.seatArrival_filed f before b hu others elsewhere
  have hu' : ((Pu.seatArrival seat slot u).record slot).inUse = true := by rw [same.inUse, ← before.inUse, hu]
  exact Dt.offer_filed placed hu' _ _ _

/-- The record moved out of its old seat: the seats and the other records agree, and no seat holds it (R34). -/
theorem Pu.leave_moves {old : Nat} (f : s.Filed) (hseat : (s.record slot).seat = some old) :
    s.Same (Pu.leave slot old s) ∧ (Pu.leave slot old s).Based ∧
      (∀ n k, k ≠ slot → (((Pu.leave slot old s).seat n).kind = .placed k ↔ ((Pu.leave slot old s).record k).seat = some n)) ∧
      ∀ n, ((Pu.leave slot old s).seat n).kind ≠ .placed slot := by
  have hu := f.inUse_of_seat hseat
  have wf : Table.wf Seat.vacant s.seats := f.canonical.2.2.2.1
  have first : s.Same (s.setSeat old Seat.vacant) := .of
  have b := first.based (State.Work.setSeat old _).canonical f.toBased
  have touch := State.invalidate_touches (slot := slot) b hu
  have kinds : ∀ n, (((Pu.leave slot old s).seat n).kind = if n = old then .vacant else (s.seat n).kind) := fun n => by
    rw [show (Pu.leave slot old s).seat n = (s.setSeat old Seat.vacant).seat n by rw [State.seat, Pu.leave, touch.seats]; rfl]
    by_cases hn : n = old
    · subst hn; rw [State.seat_setSeat_same _ wf, if_pos rfl]; rfl
    · rw [State.seat_setSeat_ne _ hn, if_neg hn]
  have placed : (s.seat old).kind = .placed slot := (f.seated old slot).2 hseat
  refine ⟨first.trans touch.same, touch.based b, fun n k hk => ?_, fun n => ?_⟩
  · rw [kinds, show (Pu.leave slot old s).record k = s.record k from touch.other k hk, ← f.seated n k]
    split
    · rename_i hn
      subst hn
      rw [placed]
      exact ⟨nofun, fun h => absurd (SeatKind.placed.inj h).symm hk⟩
    · exact Iff.rfl
  · rw [kinds]
    split
    · nofun
    · rename_i hn
      intro h
      rw [(f.seated n slot).1 h] at hseat
      exact hn (Option.some.inj hseat)

end Sys2Proof.Machine
end

section
/-! PROOF. The ending of claims leaves the directory in agreement: discards, expiries, commits at a boundary and cancellations (R105, R107, R122 to R124,
R131, R132). -/
namespace Sys2Proof.Machine

-- One declaration after another: as one text the file has more of them than it may have threads.
set_option Elab.async false

variable {s t : State} {slot : Nat}

/-! ### States that agree in all but the claims -/

/-- Two states that agree in pool, index and seats. -/
structure State.Stays (s t : State) : Prop where
  inUse : ∀ n, (t.record n).inUse = (s.record n).inUse
  identity : ∀ n, (t.record n).identity = (s.record n).identity
  batch : ∀ n, (t.record n).batch = (s.record n).batch
  seat : ∀ n, (t.record n).seat = (s.record n).seat
  free : ∀ n, (s.record n).inUse = false → t.record n = s.record n
  freeQueue : t.freeQueue = s.freeQueue
  lookup : ∀ x, t.lookup x = s.lookup x
  kind : ∀ n, (t.seat n).kind = (s.seat n).kind

namespace State.Stays

theorem refl (s : State) : s.Stays s :=
  ⟨fun _ => rfl, fun _ => rfl, fun _ => rfl, fun _ => rfl, fun _ _ => rfl, rfl, fun _ => rfl, fun _ => rfl⟩

theorem trans {u : State} (h : s.Stays t) (k : t.Stays u) : s.Stays u :=
  ⟨fun n => (k.inUse n).trans (h.inUse n), fun n => (k.identity n).trans (h.identity n), fun n => (k.batch n).trans (h.batch n),
    fun n => (k.seat n).trans (h.seat n), fun n hu => (k.free n ((h.inUse n).trans hu)).trans (h.free n hu),
    k.freeQueue.trans h.freeQueue, fun x => (k.lookup x).trans (h.lookup x), fun n => (k.kind n).trans (h.kind n)⟩

/-- States that differ in none of the three. -/
theorem of {s t : State} (records : t.store.records = s.store.records := by exact rfl) (freeQueue : t.freeQueue = s.freeQueue := by exact rfl)
    (index : t.index = s.index := by exact rfl) (seats : t.seats = s.seats := by exact rfl) : s.Stays t := by
  have same : ∀ n, t.record n = s.record n := fun n => by rw [State.record, Store.get, records]; rfl
  exact ⟨fun n => by rw [same], fun n => by rw [same], fun n => by rw [same], fun n => by rw [same], fun n _ => same n, freeQueue,
    fun x => by rw [State.lookup, index]; rfl, fun n => by rw [State.seat, seats]; rfl⟩

/-- One record in use changed in none of the fields the three look at. -/
theorem modify {f : Record → Record} (w : Table.wf Record.blank s.store.records) (hu : (s.record slot).inUse = true)
    (inUse : (f (s.record slot)).inUse = (s.record slot).inUse := by exact rfl)
    (identity : (f (s.record slot)).identity = (s.record slot).identity := by exact rfl)
    (batch : (f (s.record slot)).batch = (s.record slot).batch := by exact rfl)
    (seat : (f (s.record slot)).seat = (s.record slot).seat := by exact rfl) : s.Stays (s.modify slot f) := by
  have own := State.record_modify_same s (n := slot) (g := f) w
  have other : ∀ n, n ≠ slot → (s.modify slot f).record n = s.record n := fun n hn => State.record_modify_ne s hn
  refine ⟨fun n => ?_, fun n => ?_, fun n => ?_, fun n => ?_, fun n hn => other n fun e => ?_, rfl, fun _ => rfl, fun _ => rfl⟩
  · by_cases h : n = slot
    · subst h; rw [own, inUse]
    · rw [other n h]
  · by_cases h : n = slot
    · subst h; rw [own, identity]
    · rw [other n h]
  · by_cases h : n = slot
    · subst h; rw [own, batch]
    · rw [other n h]
  · by_cases h : n = slot
    · subst h; rw [own, seat]
    · rw [other n h]
  · rw [e, hu] at hn; cases hn

theorem pool (h : s.Stays t) (b : s.pool) : t.pool := by
  obtain ⟨nodup, mem, free, above⟩ := b
  refine ⟨h.freeQueue ▸ nodup, fun n => by rw [h.freeQueue, h.inUse]; exact mem n, fun n hu => ?_, fun n hn => ?_⟩
  · rw [h.inUse] at hu
    exact (h.free n hu).trans (free n hu)
  · have blank := above n hn
    exact (h.free n (by rw [blank]; rfl)).trans blank

theorem indexed (h : s.Stays t) (b : s.indexed) : t.indexed := by
  refine ⟨fun x e he => ?_, fun n hu => ?_⟩
  · rw [h.inUse, h.identity, h.batch]
    exact b.1 x e (h.lookup x ▸ he)
  · rw [h.identity, h.batch, h.lookup]
    exact b.2 n (h.inUse n ▸ hu)

theorem seated (h : s.Stays t) (b : s.seated) : t.seated := State.seated_of h.seat h.kind b

end State.Stays

/-- Pool, index, seats and the ports' claims in agreement with the records; what the load lists is left out. -/
structure State.Standing (s : State) : Prop extends State.Based s where
  seated : s.seated

theorem State.Filed.standing (f : s.Filed) : s.Standing := ⟨f.toBased, f.seated⟩

theorem State.Standing.of_stays (b : s.Standing) (h : s.Stays t) (canonical : t.canonical) (lists : t.Lists) (claims : ∀ n, t.ClaimAt n) :
    t.Standing := ⟨⟨canonical, h.pool b.pool, h.indexed b.indexed, lists, claims⟩, h.seated b.seated⟩

theorem State.Standing.filed (b : s.Standing) (loads : ∀ n, s.LoadAt n) : s.Filed := ⟨b.toBased, b.seated, loads⟩

/-- A slot whose record and places in the lists are as before agrees as before. -/
theorem State.ClaimAt.congr {n : Nat} (h : s.ClaimAt n) (hr : t.record n = s.record n)
    (hc : ∀ p, n ∈ (t.port p).commitList ↔ n ∈ (s.port p).commitList)
    (hs : ∀ p, n ∈ (t.port p).scheduled ↔ n ∈ (s.port p).scheduled) : t.ClaimAt n := by
  refine ⟨?_, fun p => ?_, fun p => ?_, ?_⟩
  · rw [hr]; exact h.closed
  · rw [hc, hr]; exact h.listed p
  · rw [hs, hr]; exact h.scheduled p
  · rw [hr]; exact h.undamaged

theorem State.LoadAt.congr {n : Nat} (h : s.LoadAt n) (hr : t.record n = s.record n) (hl : n ∈ t.load.list ↔ n ∈ s.load.list)
    (hs : n ∈ t.load.scheduled ↔ n ∈ s.load.scheduled) (hstate : t.load.state = s.load.state) : t.LoadAt n := by
  refine ⟨?_, ?_, ?_, ?_⟩
  · rw [hl, hr]; exact h.listed
  · rw [hs, hr]; exact h.scheduled
  · rw [hl, hr]; exact h.created
  · rw [hr, hstate]; exact h.running

theorem State.Touches.stays (h : s.Touches slot t) (b : s.Standing) : s.Stays t :=
  have r := h.same.records
  ⟨h.same.inUse, fun n => (r n).identity, fun n => (r n).batch, h.seat_same b.canonical b.seated, fun n hu => (r n).free hu,
    h.same.freeQueue, h.same.lookup, h.seat_eq⟩

theorem State.Touches.standing (h : s.Touches slot t) (b : s.Standing) : t.Standing :=
  ⟨h.based b.toBased, h.seated b.canonical b.seated⟩

/-! ### Claims that end -/

/-- Work that at most ends claims: pool, index and seats stay, a record's claim is as it was or has ended, and the load's list stays. -/
structure State.Ends (s t : State) : Prop where
  work : s.Work t
  stays : s.Stays t
  claim : ∀ n, (t.record n).hold = .none ∨
    (t.record n).hold = (s.record n).hold ∧ (t.record n).condition = (s.record n).condition
  created : ∀ n, (t.record n).createdByLoad = (s.record n).createdByLoad
  loadList : t.load.list = s.load.list
  loadState : t.load.state = s.load.state
  loadOwner : t.load.owner = s.load.owner
  scheduledBefore : ∀ n ∈ t.load.scheduled, n ∈ s.load.scheduled
  scheduledAfter : ∀ n, (t.record n).hold = .load → n ∈ s.load.scheduled → n ∈ t.load.scheduled

theorem State.Ends.refl (s : State) : s.Ends s :=
  ⟨.refl s, .refl s, fun _ => .inr ⟨rfl, rfl⟩, fun _ => rfl, rfl, rfl, rfl, fun _ => id, fun _ _ => id⟩

theorem State.Ends.trans {u : State} (h : s.Ends t) (k : t.Ends u) : s.Ends u where
  work := h.work.trans k.work
  stays := h.stays.trans k.stays
  claim n := by
    rcases k.claim n with hk | ⟨hk, ck⟩
    · exact .inl hk
    · rw [hk, ck]; exact h.claim n
  created n := (k.created n).trans (h.created n)
  loadList := k.loadList.trans h.loadList
  loadState := k.loadState.trans h.loadState
  loadOwner := k.loadOwner.trans h.loadOwner
  scheduledBefore n hn := h.scheduledBefore n (k.scheduledBefore n hn)
  scheduledAfter n hl hn := by
    refine k.scheduledAfter n hl (h.scheduledAfter n ?_ hn)
    rcases k.claim n with hk | ⟨hk, _⟩
    · rw [hl] at hk; cases hk
    · exact hk ▸ hl

/-- A record held by none, or not by the load, is so afterwards. -/
theorem State.Ends.hold_ne {n : Nat} (h : s.Ends t) {hold : Hold} (hne : hold ≠ .none) (hn : (s.record n).hold ≠ hold) : (t.record n).hold ≠ hold := by
  rcases h.claim n with hk | ⟨hk, _⟩
  · rw [hk]; exact hne.symm
  · rw [hk]; exact hn

theorem State.Ends.loadAt {n : Nat} (h : s.Ends t) (l : s.LoadAt n) (hk : (s.record n).hold = .load → (t.record n).hold = .load) : t.LoadAt n := by
  by_cases hs : (s.record n).hold = .load
  · have ht := hk hs
    have hc : (t.record n).condition = (s.record n).condition := by
      rcases h.claim n with e | ⟨_, e⟩
      · rw [ht] at e; cases e
      · exact e
    refine ⟨?_, ?_, ?_, ?_⟩
    · rw [h.loadList, ht, l.listed, hs]
    · rw [ht, hc]
      have := l.scheduled
      rw [hs] at this
      exact .trans ⟨h.scheduledBefore n, h.scheduledAfter n ht⟩ this
    · rw [h.created, h.loadList]; exact l.created
    · rw [hc, h.loadState]; exact fun _ => l.running hs
  · have ht := h.hold_ne (by decide) hs
    refine ⟨?_, ?_, ?_, fun e => absurd e ht⟩
    · rw [h.loadList, l.listed]; exact ⟨fun e => absurd e hs, fun e => absurd e ht⟩
    · exact ⟨fun e => absurd (l.scheduled.1 (h.scheduledBefore n e)).1 hs, fun e => absurd e.1 ht⟩
    · rw [h.created, h.loadList]; exact l.created

theorem State.Touches.ends (h : s.Touches slot t) (b : s.Standing) (owner : t.load.owner = s.load.owner) : s.Ends t :=
  have r := h.same.records
  ⟨h.work, h.stays b, fun n => .inr ⟨(r n).hold, (r n).condition⟩, fun n => (r n).created, h.same.loadList, h.same.loadState, owner,
    fun _ hn => h.same.loadScheduled ▸ hn, fun _ _ hn => h.same.loadScheduled ▸ hn⟩

/-! ### A discard -/

theorem Cu.discard_port (p : Port) : ((Cu.discard slot s).port p) = { s.port p with
    commitList := (s.port p).commitList.filter (· ≠ slot), scheduled := (s.port p).scheduled.filter (· ≠ slot) } := by cases p <;> rfl

theorem State.Lists.discard (l : s.Lists) : (Cu.discard slot s).Lists :=
  ⟨fun p => by rw [Cu.discard_port]; exact (l.commitList p).filter _, fun p => by rw [Cu.discard_port]; exact (l.scheduled p).filter _,
    l.load, l.loadScheduled.filter _⟩

/-- A claim ended: the directory agrees but for what the load lists, and of the load's list at most this slot is no longer held (R105). -/
theorem Cu.discard_ends (b : s.Standing) (hu : (s.record slot).inUse = true) : (Cu.discard slot s).Standing ∧ s.Ends (Cu.discard slot s) := by
  have wf := b.canonical.1
  have own := Cu.discard_record_same (n := slot) wf
  have other : ∀ n, n ≠ slot → (Cu.discard slot s).record n = s.record n := fun n => Cu.discard_record_ne
  have stays : s.Stays (Cu.discard slot s) :=
    .trans (t := Cu.unlist slot s) .of (.modify wf hu)
  have gone : ∀ n l, n ∈ List.filter (fun x => decide (x ≠ slot)) l ↔ n ∈ l ∧ n ≠ slot := fun n l => by simp
  refine ⟨b.of_stays stays (Cu.discard_work.canonical b.canonical) b.lists.discard fun n => ?_,
    ⟨Cu.discard_work, stays, fun n => ?_, fun n => ?_, rfl, rfl, rfl, fun n hn => ((gone _ _).1 hn).1, fun n hl hn => ?_⟩⟩
  · by_cases hn : n = slot
    · subst hn
      refine ⟨?_, fun p => ?_, fun p => ?_, fun _ => ?_⟩
      · rw [own]; exact ⟨fun _ => rfl, fun _ => rfl⟩
      · rw [Cu.discard_port, gone, own]; exact ⟨fun h => absurd rfl h.2, fun h => by cases p <;> cases h.1⟩
      · rw [Cu.discard_port, gone, own]; exact ⟨fun h => absurd rfl h.2, fun h => by cases p <;> cases h.1⟩
      · rw [own]; rfl
    · exact (b.claims n).congr (other n hn) (fun p => by rw [Cu.discard_port, gone]; exact and_iff_left hn)
        fun p => by rw [Cu.discard_port, gone]; exact and_iff_left hn
  · by_cases hn : n = slot
    · subst hn; rw [own]; exact .inl rfl
    · rw [other n hn]; exact .inr ⟨rfl, rfl⟩
  · by_cases hn : n = slot
    · subst hn; rw [own]; rfl
    · rw [other n hn]
  · refine (gone _ _).2 ⟨hn, fun e => ?_⟩
    subst e
    rw [own] at hl
    cases hl

theorem Cu.discard_hold (w : Table.wf Record.blank s.store.records) : ((Cu.discard slot s).record slot).hold = .none := by
  rw [Cu.discard_record_same w]; rfl

/-! ### A scheduled record at a boundary -/

/-- A scheduled record applied: committed, or dropped where pending damaged is set (R122 to R124). -/
def Cu.applyOne (slot : Nat) (s : State) : State := if (s.record slot).pendingDamaged then Cu.discard slot s else Cu.commit slot s

theorem Cu.applySet_eq (slots : List Nat) (s : State) : (Cu.applySet slots s).2 = slots.foldl (fun acc n => Cu.applyOne n acc) s := rfl

/-- A commit up to the end of its claim: the banks exchanged, the state word LIVE, the targets recomputed (R123). -/
def Cu.exchange (slot : Nat) (s : State) : State :=
  ((s.modify slot fun r => { r with
      active := BankIx.other r.active, generation := r.generation + 1, bankCheck := r.expectedCrc }).writeStateWord .rt slot
    fun r => { r with state := .live }).onStore fun cx st => Dt.recompute cx .set slot st

theorem Cu.commit_eq (slot : Nat) (s : State) : Cu.commit slot s = Cu.discard slot (Cu.exchange slot s) := rfl

theorem Cu.exchange_touches (b : s.Based) (hu : (s.record slot).inUse = true) : s.Touches slot (Cu.exchange slot s) := by
  have first := State.modify_touches (f := fun r => { r with
    active := BankIx.other r.active, generation := r.generation + 1, bankCheck := r.expectedCrc }) b hu ⟨.of_inUse hu hu, rfl⟩
  have b1 := first.based b
  have second := State.read_touches (slot := slot) b1 .rt isStateWord
  have b2 := second.based b1
  have hu2 := (second.same.inUse slot).trans ((first.same.inUse slot).trans hu)
  have third := State.modify_touches (f := fun r => { r with state := .live }) b2 hu2 ⟨.of_inUse hu2 rfl, rfl⟩
  have hu3 := (third.same.inUse slot).trans hu2
  exact ((first.trans second).trans third).trans (State.recompute_touches (third.based b2) .set hu3)

/-- A record applied: its claim has ended, and no other (R123, R124). -/
theorem Cu.applyOne_ends (b : s.Standing) (hu : (s.record slot).inUse = true) :
    (Cu.applyOne slot s).Standing ∧ s.Ends (Cu.applyOne slot s) ∧ ((Cu.applyOne slot s).record slot).hold = .none ∧
      ∀ n, n ≠ slot → (Cu.applyOne slot s).record n = s.record n := by
  simp only [Cu.applyOne]
  split
  · obtain ⟨standing, ends⟩ := Cu.discard_ends b hu
    exact ⟨standing, ends, Cu.discard_hold b.canonical.1, fun n hn => Cu.discard_record_ne hn⟩
  · have touch := Cu.exchange_touches b.toBased hu
    have b' := touch.standing b
    obtain ⟨standing, ends⟩ := Cu.discard_ends (slot := slot) b' ((touch.same.inUse slot).trans hu)
    rw [Cu.commit_eq]
    exact ⟨standing, (touch.ends b rfl).trans ends, Cu.discard_hold b'.canonical.1,
      fun n hn => (Cu.discard_record_ne hn).trans (touch.other n hn)⟩

/-! ### Several claims -/

/-- One claim after another ended, each by work that ends that of its own slot: the directory agrees but for the load's list, and every one has ended. -/
theorem State.Ends.each {slots : List Nat} {f : State → Nat → State} (h : ∀ a n, State.Standing a → (a.record n).inUse = true →
      (f a n).Standing ∧ a.Ends (f a n) ∧ ((f a n).record n).hold = .none ∧ ∀ k, k ≠ n → (f a n).record k = a.record k)
    (b : s.Standing) (hu : ∀ n ∈ slots, (s.record n).inUse = true) :
    (slots.foldl f s).Standing ∧ s.Ends (slots.foldl f s) ∧ (∀ n ∈ slots, ((slots.foldl f s).record n).hold = .none) ∧
      ∀ n, n ∉ slots → (slots.foldl f s).record n = s.record n := by
  induction slots generalizing s with
  | nil => exact ⟨b, .refl s, nofun, fun _ _ => rfl⟩
  | cons m slots ih =>
    obtain ⟨b1, first, none, others⟩ := h s m b (hu m List.mem_cons_self)
    obtain ⟨b2, rest, ended, untouched⟩ := ih b1 fun n hn => (first.stays.inUse n).trans (hu n (List.mem_cons_of_mem _ hn))
    refine ⟨b2, first.trans rest, fun n hn => ?_, fun n hn => ?_⟩
    · rcases List.mem_cons.1 hn with rfl | hn
      · rcases rest.claim n with e | ⟨e, _⟩
        · exact e
        · exact e.trans none
      · exact ended n hn
    · rw [List.mem_cons, not_or] at hn
      exact (untouched n hn.2).trans (others n hn.1)

/-- Where none of them is the load's, the load's records stand as before. -/
theorem State.Ends.filed {slots : List Nat} (h : s.Ends t) (b : t.Standing) (f : s.Filed) (ports : ∀ n ∈ slots, (s.record n).hold ≠ .load)
    (others : ∀ n, n ∉ slots → t.record n = s.record n) : t.Filed :=
  b.filed fun n => h.loadAt (f.loads n) fun hl => by
    rw [others n fun hn => ports n hn hl]; exact hl

theorem Cu.discardAll_ends {slots : List Nat} (b : s.Standing) (hu : ∀ n ∈ slots, (s.record n).inUse = true) :
    (Cu.discardAll slots s).Standing ∧ s.Ends (Cu.discardAll slots s) ∧ (∀ n ∈ slots, ((Cu.discardAll slots s).record n).hold = .none) ∧
      ∀ n, n ∉ slots → (Cu.discardAll slots s).record n = s.record n :=
  State.Ends.each (fun _ _ b hu => ⟨(Cu.discard_ends b hu).1, (Cu.discard_ends b hu).2, Cu.discard_hold b.canonical.1, fun _ => Cu.discard_record_ne⟩) b hu

theorem Cu.applySet_ends {slots : List Nat} (b : s.Standing) (hu : ∀ n ∈ slots, (s.record n).inUse = true) :
    (Cu.applySet slots s).2.Standing ∧ s.Ends (Cu.applySet slots s).2 ∧
      (∀ n ∈ slots, ((Cu.applySet slots s).2.record n).hold = .none) ∧
      ∀ n, n ∉ slots → (Cu.applySet slots s).2.record n = s.record n :=
  State.Ends.each (fun _ _ b hu => Cu.applyOne_ends b hu) b hu

/-! ### Ports' claims -/

theorem Port.hold_ne_none (p : Port) : p.hold ≠ .none := by cases p <;> nofun
theorem Port.hold_ne_load (p : Port) : p.hold ≠ .load := by cases p <;> nofun

/-- A list whose slots would be held by a port is empty where no record is (R117, R122). -/
theorem State.Based.lists_nil {p : Port} (b : s.Based) (h : ∀ n, (s.record n).hold ≠ p.hold) :
    (s.port p).commitList = [] ∧ (s.port p).scheduled = [] :=
  ⟨List.eq_nil_iff_forall_not_mem.2 fun n hn => h n (((b.claims n).listed p).1 hn).1,
    List.eq_nil_iff_forall_not_mem.2 fun n hn => h n (((b.claims n).scheduled p).1 hn).1⟩

/-- A port changed in none of what the directory looks at. -/
theorem State.Filed.onPort {p : Port} {f : PortState → PortState} (h : s.Filed) (hc : (f (s.port p)).commitList = (s.port p).commitList := by exact rfl)
    (hs : (f (s.port p)).scheduled = (s.port p).scheduled := by exact rfl) : (s.onPort p f).Filed := by
  cases p
  · exact h.of id (commitA := hc) (scheduledA := hs)
  · exact h.of id (commitB := hc) (scheduledB := hs)

theorem Cu.expirePort_filed {p : Port} (f : s.Filed) : (Cu.expirePort p s).Filed := by
  simp only [Cu.expirePort]
  split
  · exact f
  · have due : ∀ n ∈ s.slotsWhere (Record.expires p), (s.record n).hold = p.hold := fun n hn => by
      have := (State.mem_slotsWhere (by simp [Record.expires, Record.timerRuns, Record.blank])).1 hn
      simp only [Record.expires, Bool.and_eq_true, beq_iff_eq] at this
      exact this.1.2
    have hu : ∀ n ∈ s.slotsWhere (Record.expires p), (s.record n).inUse = true :=
      fun n hn => f.inUse_of_hold (by rw [due n hn]; exact p.hold_ne_none)
    obtain ⟨standing, ends, _, others⟩ := Cu.discardAll_ends f.standing hu
    have filed := ends.filed standing f (fun n hn => by rw [due n hn]; exact p.hold_ne_load) others
    exact (filed.onPort (p := p)).onNu _

theorem Cu.expire_filed (f : s.Filed) : (Cu.expire s).Filed := Cu.expirePort_filed (Cu.expirePort_filed f)

theorem Cu.cancelPort_filed {p : Port} (f : s.Filed) : (Cu.cancelPort p s).Filed := by
  have held : ∀ n, n ∈ s.slotsWhere (fun r => r.hold == p.hold) ↔ (s.record n).hold = p.hold := fun n =>
    (State.mem_slotsWhere (by cases p <;> rfl)).trans beq_iff_eq
  have hu : ∀ n ∈ s.slotsWhere (fun r => r.hold == p.hold), (s.record n).inUse = true :=
    fun n hn => f.inUse_of_hold (by rw [(held n).1 hn]; exact p.hold_ne_none)
  obtain ⟨standing, ends, none, others⟩ := Cu.discardAll_ends f.standing hu
  have filed := ends.filed standing f (fun n hn => by rw [(held n).1 hn]; exact p.hold_ne_load) others
  obtain ⟨hc, hs⟩ := filed.lists_nil (p := p) fun n hn => by
    by_cases h : n ∈ s.slotsWhere (fun r => r.hold == p.hold)
    · rw [none n h] at hn; exact p.hold_ne_none hn.symm
    · rw [others n h] at hn; exact h ((held n).2 hn)
  exact filed.onPort hc.symm hs.symm

theorem Cu.applyPort_filed {p : Port} (f : s.Filed) : (Cu.applyPort p s).Filed := by
  simp only [Cu.applyPort]
  refine .ite (fun _ => f) fun _ => ?_
  have held := fun n => (f.claims n).scheduled p
  have hu : ∀ n ∈ (s.port p).scheduled, (s.record n).inUse = true :=
    fun n hn => f.inUse_of_hold (by rw [((held n).1 hn).1]; exact p.hold_ne_none)
  obtain ⟨standing, ends, none, others⟩ := Cu.applySet_ends f.standing hu
  have filed := ends.filed standing f (fun n hn => by rw [((held n).1 hn).1]; exact p.hold_ne_load) others
  have hs : (((Cu.applySet (s.port p).scheduled s).2).port p).scheduled = [] :=
    List.eq_nil_iff_forall_not_mem.2 fun n hn => by
      obtain ⟨hold, condition⟩ := ((filed.claims n).scheduled p).1 hn
      by_cases h : n ∈ (s.port p).scheduled
      · rw [none n h] at hold; exact p.hold_ne_none hold.symm
      · rw [others n h] at hold condition
        exact h ((held n).2 ⟨hold, condition⟩)
  exact (filed.onPort (p := p) rfl hs.symm).onNu _

/-- Timers lowered touch nothing the directory looks at (R106). -/
theorem Cu.ageHolds_filed (f : s.Filed) : (Cu.ageHolds s).Filed := by
  have ticked : ∀ n, (s.record n).Filed ((Cu.ageHolds s).record n) ∧ ((Cu.ageHolds s).record n).seat = (s.record n).seat := fun n => by
    rw [Cu.ageHolds_record f.canonical.1, Record.ticked]
    split
    · rename_i runs
      have hu : (s.record n).inUse = true := f.inUse_of_hold fun h => by simp [Record.timerRuns, h, Hold.isPort] at runs
      exact ⟨.of_inUse hu hu, rfl⟩
    · exact ⟨.refl _, rfl⟩
  have same : s.Same (Cu.ageHolds s) :=
    ⟨fun n => (ticked n).1, rfl, fun _ => rfl, fun p => by cases p <;> rfl, fun p => by cases p <;> rfl, rfl, rfl, rfl⟩
  exact ⟨same.based Cu.ageHolds_work.canonical f.toBased, State.seated_of (fun n => (ticked n).2) (fun _ => rfl) f.seated, same.loads f.loads⟩

end Sys2Proof.Machine
end

section
/-! PROOF. The edit commands leave the directory in agreement: opening, writing, scheduling, listing, reopening (R109 to R121). -/
namespace Sys2Proof.Machine

-- One declaration after another: as one text the file has more of them than it may have threads.
set_option Elab.async false

variable {s : State} {slot n : Nat} {slots l : List Nat} {p : Port} {payload : List Byte}

/-! ### Ascending sets -/

theorem mem_insertNat {m : Nat} : m ∈ insertNat n l ↔ m = n ∨ m ∈ l := by
  induction l with
  | nil => simp [insertNat]
  | cons k l ih =>
    simp only [insertNat]
    split
    · simp
    · split
      · rename_i h; subst h; simp
      · simp only [List.mem_cons, ih]; tauto

/-- A number put into an ascending set leaves it ascending (R122). -/
theorem insertNat_ascending (h : l.Pairwise (· < ·)) : (insertNat n l).Pairwise (· < ·) := by
  induction l with
  | nil => simp [insertNat]
  | cons k l ih =>
    rw [List.pairwise_cons] at h
    simp only [insertNat]
    split
    · rename_i hlt
      refine List.pairwise_cons.2 ⟨fun m hm => ?_, List.pairwise_cons.2 h⟩
      rcases List.mem_cons.1 hm with rfl | hm
      · exact hlt
      · exact hlt.trans (h.1 m hm)
    · split
      · exact List.pairwise_cons.2 h
      · refine List.pairwise_cons.2 ⟨fun m hm => ?_, ih h.2⟩
        rcases mem_insertNat.1 hm with rfl | hm
        · omega
        · exact h.1 m hm

/-- Several numbers put into an ascending set. -/
def insertAll (slots l : List Nat) : List Nat := slots.foldl (fun acc n => insertNat n acc) l

theorem mem_insertAll {m : Nat} : m ∈ insertAll slots l ↔ m ∈ slots ∨ m ∈ l := by
  induction slots generalizing l with
  | nil => simp [insertAll]
  | cons n slots ih =>
    rw [insertAll, List.foldl_cons, ← insertAll, ih, mem_insertNat, List.mem_cons]
    tauto

theorem insertAll_ascending (h : l.Pairwise (· < ·)) : (insertAll slots l).Pairwise (· < ·) :=
  foldl_keep (P := fun l : List Nat => l.Pairwise (· < ·)) slots (fun _ _ _ => insertNat_ascending) h

/-! ### Several records changed alike -/

/-- The records of several slots changed alike. -/
def State.modifyAll (f : Record → Record) (slots : List Nat) (s : State) : State := slots.foldl (fun acc n => acc.modify n f) s

/-- Everything that does: the records of the slots, each once, and nothing else. -/
theorem State.modifyAll_records {f : Record → Record} (w : Table.wf Record.blank s.store.records) (hl : slots.Nodup) :
    Table.wf Record.blank (s.modifyAll f slots).store.records ∧
      ∀ k, (s.modifyAll f slots).record k = if k ∈ slots then f (s.record k) else s.record k := by
  induction slots generalizing s with
  | nil => exact ⟨w, fun _ => rfl⟩
  | cons n slots ih =>
    rw [List.nodup_cons] at hl
    obtain ⟨wf, record⟩ := ih (s := s.modify n f) (Store.modify_records_wf w) hl.2
    refine ⟨wf, fun k => (record k).trans ?_⟩
    by_cases hk : k = n
    · subst hk
      rw [if_neg hl.1, if_pos List.mem_cons_self, State.record_modify_same s w]
    · rw [State.record_modify_ne s hk]
      simp [hk]

theorem State.modifyAll_store {f : Record → Record} :
    s.modifyAll f slots = { s with store := { s.store with records := (s.modifyAll f slots).store.records } } := by
  induction slots generalizing s with
  | nil => rfl
  | cons n slots ih => exact ih (s := s.modify n f)

@[simp] theorem State.modifyAll_port {f : Record → Record} : (s.modifyAll f slots).port p = s.port p := by
  rw [State.modifyAll_store]; cases p <;> rfl

@[simp] theorem State.modifyAll_load {f : Record → Record} : (s.modifyAll f slots).load = s.load := by rw [State.modifyAll_store]

@[simp] theorem State.modifyAll_lookup {f : Record → Record} (x : Nat) : (s.modifyAll f slots).lookup x = s.lookup x := by
  rw [State.modifyAll_store]; rfl

@[simp] theorem State.modifyAll_freeQueue {f : Record → Record} : (s.modifyAll f slots).freeQueue = s.freeQueue := by rw [State.modifyAll_store]

@[simp] theorem State.modifyAll_seat {f : Record → Record} (n : Nat) : (s.modifyAll f slots).seat n = s.seat n := by rw [State.modifyAll_store]; rfl

theorem State.modifyAll_work {f : Record → Record} (ht : ∀ r, (f r).target = r.target := by exact fun _ => rfl)
    (ha : ∀ r, (f r).applied = r.applied := by exact fun _ => rfl) : s.Work (s.modifyAll f slots) :=
  .fold fun _ _ _ => .modifyOf (ht _) (ha _)

theorem State.modifyAll_stays {f : Record → Record} (w : Table.wf Record.blank s.store.records) (hl : slots.Nodup)
    (hu : ∀ n ∈ slots, (s.record n).inUse = true) (inUse : ∀ r, (f r).inUse = r.inUse := by exact fun _ => rfl)
    (identity : ∀ r, (f r).identity = r.identity := by exact fun _ => rfl) (batch : ∀ r, (f r).batch = r.batch := by exact fun _ => rfl)
    (seat : ∀ r, (f r).seat = r.seat := by exact fun _ => rfl) : s.Stays (s.modifyAll f slots) := by
  have record := (State.modifyAll_records (f := f) w hl).2
  refine ⟨fun n => ?_, fun n => ?_, fun n => ?_, fun n => ?_, fun n hn => ?_, State.modifyAll_freeQueue, fun _ => State.modifyAll_lookup _,
    fun _ => congrArg Seat.kind (State.modifyAll_seat _)⟩
  all_goals rw [record]
  · rw [apply_ite Record.inUse, inUse, ite_self]
  · rw [apply_ite Record.identity, identity, ite_self]
  · rw [apply_ite Record.batch, batch, ite_self]
  · rw [apply_ite Record.seat, seat, ite_self]
  · exact if_neg fun h => by rw [hu n h] at hn; cases hn

/-! ### A claim of a port changed -/

/-- A record that the load holds neither before nor after agrees with the load as before. -/
theorem State.LoadAt.unheld {t : State} (h : s.LoadAt n) (hs : (s.record n).hold ≠ .load) (ht : (t.record n).hold ≠ .load)
    (created : (t.record n).createdByLoad = (s.record n).createdByLoad) (hl : t.load = s.load) : t.LoadAt n := by
  refine ⟨?_, ?_, ?_, fun e => absurd e ht⟩
  · rw [hl, h.listed]; exact ⟨fun e => absurd e hs, fun e => absurd e ht⟩
  · rw [hl, h.scheduled]; exact ⟨fun e => absurd e.1 hs, fun e => absurd e.1 ht⟩
  · rw [hl, created]; exact h.created

/-- Where one slot's claim by a port has changed, and its places in the lists with it. -/
theorem State.Filed.claimed {t : State} (f : s.Filed) (stays : s.Stays t) (canonical : t.canonical) (lists : t.Lists) (own : t.ClaimAt slot)
    (hs : (s.record slot).hold ≠ .load) (ht : (t.record slot).hold ≠ .load)
    (created : (t.record slot).createdByLoad = (s.record slot).createdByLoad) (other : ∀ n, n ≠ slot → t.record n = s.record n)
    (load : t.load = s.load := by exact rfl)
    (listed : ∀ n p, n ≠ slot → (n ∈ (t.port p).commitList ↔ n ∈ (s.port p).commitList) := by exact fun _ p _ => by cases p <;> exact Iff.rfl)
    (scheduled : ∀ n p, n ≠ slot → (n ∈ (t.port p).scheduled ↔ n ∈ (s.port p).scheduled) := by exact fun _ p _ => by cases p <;> exact Iff.rfl) :
    t.Filed := by
  refine (f.standing.of_stays stays canonical lists fun n => ?_).filed fun n => ?_
  · by_cases hn : n = slot
    · subst hn; exact own
    · exact (f.claims n).congr (other n hn) (fun p => listed n p hn) fun p => scheduled n p hn
  · by_cases hn : n = slot
    · subst hn; exact (f.loads n).unheld hs ht created load
    · exact (f.loads n).congr (other n hn) (by rw [load]) (by rw [load]) (by rw [load])

/-- A record held by a port stands in no list of another. -/
theorem Port.hold_inj {q : Port} (h : p.hold = q.hold) : p = q := by cases p <;> cases q <;> first | rfl | cases h

/-! ### Writes of the pending bank -/

theorem State.Touches.of_records {st : Store} (hr : st.records = s.store.records) (hk : s.store.Kept s.params.headroomLimit st) :
    s.Touches slot { s with store := st } := by
  have same : s.Same { s with store := st } := .of (records := hr)
  have record : ∀ n, State.record { s with store := st } n = s.record n := fun n => Store.get_of_records hr n
  exact ⟨.of (store := hk), same, fun n _ => record n, .inl (by rw [record]), rfl⟩

theorem Record.setBank_filed (hu : (s.record slot).inUse = true) (ix : BankIx) (b : Bank) :
    (s.record slot).Filed ((s.record slot).setBank ix b) ∧ ((s.record slot).setBank ix b).seat = (s.record slot).seat := by
  cases ix <;> exact ⟨.of_inUse hu hu, rfl⟩

theorem State.fillPending_touches (b : s.Based) (hu : (s.record slot).inUse = true) (bank : Bank) : s.Touches slot (s.fillPending slot bank) :=
  (State.modify_touches b hu (Record.setBank_filed hu _ bank) (by simp) (by simp)).trans (.of_records rfl (.mend _))

theorem State.writeGroup_touches (b : s.Based) (hu : (s.record slot).inUse = true) (g : Group) (bytes : List Byte) :
    s.Touches slot (s.writeGroup slot g bytes) :=
  (State.modify_touches b hu (Record.setBank_filed hu _ _) (by simp) (by simp)).trans (.of_records rfl (.mend _))

theorem Cu.readPendingBank_touches (b : s.Based) : s.Touches slot (Cu.readPendingBank slot s).2 := State.read_touches b _ _

/-! ### The commands -/

/-- The check of the slot leaves the directory in agreement where the body does. -/
theorem withSlot_filed {body : Nat → State → Reply × State} (f : s.Filed)
    (h : ∀ slot, (s.record slot).inUse = true → (body slot s).2.Filed) : (withSlot payload body s).2.Filed := by
  rcases withSlot_cases payload body s with e | e | ⟨_, hu, e⟩ <;> rw [e]
  · exact f
  · exact f
  · exact h _ hu

theorem withHold_filed {body : State → Reply × State} (f : s.Filed) (h : (s.record slot).hold = p.hold → (body s).2.Filed) :
    (withHold p slot body s).2.Filed := by
  rcases withHold_cases p slot body s with e | e | ⟨hh, e⟩ <;> rw [e]
  · exact f
  · exact f
  · exact h hh

/-- An unheld record opened (R109). -/
theorem Cu.open_filed {r : Record → Record} (f : s.Filed) (hu : (s.record slot).inUse = true) (hn : (s.record slot).hold = .none)
    (hr : ∀ r', r r' = { r' with hold := p.hold, condition := .opened, pendingDamaged := false, holdTimer := (r r').holdTimer }) :
    (s.modify slot r).Filed := by
  have wf := f.canonical.1
  have own := State.record_modify_same s (n := slot) (g := r) wf
  rw [hr] at own
  have claim := f.claims slot
  refine f.claimed (slot := slot) (.modify wf hu (by rw [hr]; rfl) (by rw [hr]) (by rw [hr]) (by rw [hr]))
    ((State.Work.modifyOf (by rw [hr]) (by rw [hr])).canonical f.canonical)
    ⟨f.lists.commitList, f.lists.scheduled, f.lists.load, f.lists.loadScheduled⟩ ⟨?_, fun q => ?_, fun q => ?_, fun h => ?_⟩
    (by rw [hn]; nofun) (by rw [own]; exact p.hold_ne_load) (by rw [own]) fun n hne => State.record_modify_ne s hne
  · rw [own]; exact ⟨fun h => absurd h p.hold_ne_none, nofun⟩
  · rw [own, State.modify_port, claim.listed q, hn]; exact ⟨fun h => absurd h.1.symm q.hold_ne_none, nofun⟩
  · rw [own, State.modify_port, claim.scheduled q, hn]; exact ⟨fun h => absurd h.1.symm q.hold_ne_none, nofun⟩
  · rw [own] at h; exact absurd h p.hold_ne_none

theorem Cu.openBody_filed (f : s.Filed) : (Cu.openBody p payload s).2.Filed := withSlot_filed f fun slot hu => by
  dsimp only
  split
  · exact f
  · split
    · exact f
    · rename_i hn _
      have first := State.read_touches (slot := slot) f.toBased .cu (isCopyWord (s.record slot))
      have hu1 := (first.same.inUse slot).trans hu
      generalize hb : (copySource (s.read .cu slot (isCopyWord (s.record slot)))
        ((s.read .cu slot (isCopyWord (s.record slot))).record slot)).2 = bank
      have second := State.fillPending_touches (first.based f.toBased) hu1 bank
      refine Cu.open_filed (p := p) (second.filed (first.filed f)) ((second.same.inUse slot).trans hu1) ?_ fun _ => rfl
      exact ((second.same.records slot).hold.trans (first.same.records slot).hold).trans (Decidable.not_not.1 hn)

theorem Cu.writeBody_filed (f : s.Filed) : (Cu.writeBody p payload s).2.Filed := by
  simp only [Cu.writeBody]
  split
  · exact f
  · exact f
  · rename_i g _ _
    refine withSlot_filed f fun slot hu => withHold_filed f fun _ => ?_
    split
    · exact f
    · exact f
    · split
      · exact f
      · have first := State.writeGroup_touches f.toBased hu g (payload.drop 3)
        have b1 := first.based f.toBased
        have hu1 := (first.same.inUse slot).trans hu
        have second := State.modify_touches
          (f := fun r => { r with holdTimer := (s.writeGroup slot g (payload.drop 3)).params.holdTimeout }) b1 hu1 ⟨.of_inUse hu1 hu1, rfl⟩
        have third := Cu.readPendingBank_touches (slot := slot) (second.based b1)
        exact third.filed (second.filed (first.filed f))

theorem Cu.readBody_filed (f : s.Filed) : (Cu.readBody p payload s).2.Filed :=
  withSlot_filed f fun _ _ => withHold_filed f fun _ => (Cu.readPendingBank_touches f.toBased).filed f

theorem Cu.releaseBody_filed (f : s.Filed) : (Cu.releaseBody p payload s).2.Filed :=
  withSlot_filed f fun slot hu => withHold_filed f fun hh => by
    dsimp only
    split
    · exact f
    · obtain ⟨standing, ends⟩ := Cu.discard_ends f.standing hu
      refine ends.filed (slots := [slot]) standing f (fun n hn => ?_) fun n hn => Cu.discard_record_ne (by simpa using hn)
      rw [List.mem_singleton.1 hn, hh]
      exact p.hold_ne_load

/-- An OPEN record of a port made SCHEDULED (R115). -/
theorem Cu.schedule_filed (f : s.Filed) (hh : (s.record slot).hold = p.hold) (hc : (s.record slot).condition = .opened) :
    (Cu.schedule p slot s).Filed := by
  have wf := f.canonical.1
  have hu := f.inUse_of_hold (n := slot) (by rw [hh]; exact p.hold_ne_none)
  have own := Cu.schedule_record_same (p := p) (n := slot) wf
  have claim := f.claims slot
  have ports : ∀ q, ((Cu.schedule p slot s).port q).commitList = (s.port q).commitList ∧
      ((Cu.schedule p slot s).port q).scheduled = if q = p then insertNat slot (s.port q).scheduled else (s.port q).scheduled := fun q => by
    cases p <;> cases q <;> exact ⟨rfl, rfl⟩
  have stays : s.Stays (Cu.schedule p slot s) :=
    .trans (.modify (slot := slot) (f := fun r => { r with condition := .scheduled }) wf hu) (by cases p <;> exact .of)
  refine f.claimed (slot := slot) stays (Cu.schedule_work.canonical f.canonical)
    ⟨fun q => by rw [(ports q).1]; exact f.lists.commitList q, fun q => ?_, by cases p <;> exact f.lists.load, by cases p <;> exact f.lists.loadScheduled⟩
    ⟨?_, fun q => ?_, fun q => ?_, fun h => ?_⟩ (by rw [hh]; exact p.hold_ne_load) (by rw [own]; exact fun h => p.hold_ne_load (hh.symm.trans h))
    (by rw [own]) (fun n hn => Cu.schedule_record_ne hn) (by cases p <;> rfl) (fun n q _ => by rw [(ports q).1]) fun n q hn => ?_
  · rw [(ports q).2]
    split
    · exact insertNat_ascending (f.lists.scheduled q)
    · exact f.lists.scheduled q
  · rw [own, hh]; exact ⟨fun h => absurd h p.hold_ne_none, nofun⟩
  · rw [own, (ports q).1, claim.listed q, hc]; exact ⟨fun h => (nomatch h.2), fun h => (nomatch h.2)⟩
  · rw [own, (ports q).2, hh]
    split
    · rename_i e; subst e; exact ⟨fun _ => ⟨rfl, rfl⟩, fun _ => mem_insertNat.2 (.inl rfl)⟩
    · rename_i e
      rw [claim.scheduled q, hh]
      exact ⟨fun h => absurd (Port.hold_inj h.1).symm e, fun h => absurd (Port.hold_inj h.1).symm e⟩
  · rw [own] at h; exact absurd (hh.symm.trans h) p.hold_ne_none
  · rw [(ports q).2]
    split
    · rw [mem_insertNat]; exact or_iff_right hn
    · exact Iff.rfl

/-- A held record that is neither FROZEN nor SCHEDULED is OPEN (R104). -/
theorem State.ClaimAt.opened (c : s.ClaimAt n) (hh : (s.record n).hold = p.hold) (hf : (s.record n).condition ≠ .frozen)
    (hs : (s.record n).condition ≠ .scheduled) : (s.record n).condition = .opened := by
  have := c.closed
  cases hc : (s.record n).condition
  · exact absurd (hh.symm.trans (this.2 hc)) p.hold_ne_none
  · rfl
  · exact absurd hc hf
  · exact absurd hc hs

theorem Cu.commitBody_filed (f : s.Filed) : (Cu.commitBody p payload s).2.Filed :=
  withSlot_filed f fun slot hu => withHold_filed f fun hh => by
    dsimp only [Cu.readPendingBank]
    split
    · exact f
    · exact f
    · rename_i hf hs
      split
      · exact f
      · have first := State.read_touches (slot := slot) f.toBased .cu (isBankWord (s.record slot).pendingIx)
        have f1 := first.filed f
        have hu1 := (first.same.inUse slot).trans hu
        split
        · exact f1
        · have second := State.modify_touches (f := fun r => { r with expectedCrc := BitVec.ofNat 16 (natAt payload 2 2) }) f1.toBased hu1
            ⟨.of_inUse hu1 hu1, rfl⟩
          have r1 := (first.trans second).same.records slot
          exact Cu.schedule_filed (second.filed f1) (r1.hold.trans hh) (r1.condition.trans ((f.claims slot).opened hh hf hs))

theorem mem_of_positionOf {k : Nat} (h : positionOf n l = some k) : n ∈ l := by
  induction l generalizing k with
  | nil => cases h
  | cons m l ih =>
    simp only [positionOf] at h
    split at h
    · rename_i e; exact e ▸ List.mem_cons_self
    · obtain ⟨j, hj, _⟩ := Option.map_eq_some_iff.1 h
      exact List.mem_cons_of_mem _ (ih hj)

theorem not_mem_of_positionOf (h : positionOf n l = none) : n ∉ l := by
  induction l with
  | nil => nofun
  | cons m l ih =>
    simp only [positionOf] at h
    split at h
    · cases h
    · rename_i e
      rw [List.mem_cons, not_or]
      exact ⟨fun h => e h.symm, ih (Option.map_eq_none_iff.1 h)⟩

/-- A listed record of a port, with its place in the port's list: the record's condition and the list changed together (R118, R119). -/
theorem Cu.relist_filed {r : Record → Record} {g : PortState → PortState} {list : List Nat} {condition : Condition} (f : s.Filed) (hh : (s.record slot).hold = p.hold)
    (hne : condition ≠ .closed) (hns : condition ≠ .scheduled) (hs : (s.record slot).condition ≠ .scheduled)
    (hr : r (s.record slot) = { s.record slot with
      condition := condition, expectedCrc := (r (s.record slot)).expectedCrc, holdTimer := (r (s.record slot)).holdTimer })
    (nodup : list.Nodup) (own : slot ∈ list ↔ condition = .frozen) (others : ∀ n, n ≠ slot → (n ∈ list ↔ n ∈ (s.port p).commitList))
    (hg : g (s.port p) = { s.port p with commitList := list }) : ((s.modify slot r).onPort p g).Filed := by
  have wf := f.canonical.1
  have hu := f.inUse_of_hold (n := slot) (by rw [hh]; exact p.hold_ne_none)
  have written := (State.onPort_record (s.modify slot r) p g slot).trans ((State.record_modify_same s wf).trans hr)
  have claim := f.claims slot
  have hg' : (((s.modify slot r).onPort p g).port p) = { s.port p with commitList := list } := by
    rw [State.port_onPort, State.modify_port, hg]
  have ports : ∀ q, (((s.modify slot r).onPort p g).port q).scheduled = (s.port q).scheduled ∧
      (((s.modify slot r).onPort p g).port q).commitList = if q = p then list else (s.port q).commitList := fun q => by
    by_cases h : q = p
    · subst h; rw [hg', if_pos rfl]; exact ⟨rfl, rfl⟩
    · rw [State.port_onPort_ne _ _ _ _ h, State.modify_port, if_neg h]; exact ⟨rfl, rfl⟩
  have canonical : ((s.modify slot r).onPort p g).canonical := by
    have := (State.Work.modifyOf (s := s) (slot := slot) (f := r) (by rw [hr]) (by rw [hr])).canonical f.canonical
    cases p <;> exact this
  have stays : s.Stays ((s.modify slot r).onPort p g) :=
    .trans (.modify (slot := slot) (f := r) wf hu (by rw [hr]; rfl) (by rw [hr]) (by rw [hr]) (by rw [hr])) (by cases p <;> exact .of)
  refine f.claimed (slot := slot) stays canonical
    ⟨fun q => ?_, fun q => by rw [(ports q).1]; exact f.lists.scheduled q, by cases p <;> exact f.lists.load, by cases p <;> exact f.lists.loadScheduled⟩
    ⟨?_, fun q => ?_, fun q => ?_, fun h => ?_⟩ (by rw [hh]; exact p.hold_ne_load) (by rw [written]; exact fun h => p.hold_ne_load (hh.symm.trans h))
    (by rw [written]) (fun n hn => (State.onPort_record _ _ _ _).trans (State.record_modify_ne s hn)) (by cases p <;> rfl) (fun n q hn => ?_)
    fun n q _ => by rw [(ports q).1]
  · rw [(ports q).2]
    split
    · exact nodup
    · exact f.lists.commitList q
  · rw [written, hh]; exact ⟨fun h => absurd h p.hold_ne_none, fun h => absurd h hne⟩
  · rw [written, (ports q).2, hh]
    split
    · rename_i e; subst e; rw [own]; exact (and_iff_right rfl).symm
    · rename_i e
      rw [claim.listed q, hh]
      exact ⟨fun h => absurd (Port.hold_inj h.1).symm e, fun h => absurd (Port.hold_inj h.1).symm e⟩
  · rw [written, (ports q).1, claim.scheduled q]; exact ⟨fun h => absurd h.2 hs, fun h => absurd h.2 hns⟩
  · rw [written] at h; exact absurd (hh.symm.trans h) p.hold_ne_none
  · rw [(ports q).2]
    split
    · rename_i e; subst e; exact others n hn
    · exact Iff.rfl

theorem Cu.groupAddBody_filed (f : s.Filed) : (Cu.groupAddBody p payload s).2.Filed :=
  withSlot_filed f fun slot hu => withHold_filed f fun hh => by
    dsimp only [Cu.readPendingBank]
    split
    · exact f
    · rename_i absent
      split
      · exact f
      · rename_i hs
        split
        · exact f
        · split
          · exact f
          · have first := State.read_touches (slot := slot) f.toBased .cu (isBankWord (s.record slot).pendingIx)
            have f1 := first.filed f
            split
            · exact f1
            · have r1 := first.same.records slot
              have mem := not_mem_of_positionOf absent
              have listed := first.same.commitList p
              dsimp only
              refine (Cu.relist_filed (p := p) (list := (s.port p).commitList ++ [slot]) (condition := .frozen) f1 (r1.hold.trans hh) nofun nofun
                (fun h => hs (r1.condition.symm.trans h)) rfl ?_ (by simp) (fun n hn => by rw [listed]; simp [hn]) ?_)
              · exact List.nodup_append.2 ⟨f.lists.commitList p, by simp, fun a ha b hb e => mem (by simp at hb; exact hb ▸ e ▸ ha)⟩
              · rw [← listed]

theorem Cu.groupRemoveBody_filed (f : s.Filed) : (Cu.groupRemoveBody p payload s).2.Filed :=
  withSlot_filed f fun slot hu => withHold_filed f fun hh => by
    dsimp only
    split
    · exact f
    · rename_i hs
      split
      · exact f
      · dsimp only
        exact Cu.relist_filed (p := p) (list := (s.port p).commitList.filter (· ≠ slot)) (condition := .opened) f hh nofun nofun hs rfl
          ((f.lists.commitList p).filter _) (by simp) (fun n hn => by simp [hn]) rfl

end Sys2Proof.Machine
end

section
/-! PROOF. GROUP_CLEAR and GROUP_COMMIT, retirement, creation and the arrivals leave the directory in agreement (R3, R4, R13, R36, R120, R121). -/
namespace Sys2Proof.Machine

-- One declaration after another: as one text the file has more of them than it may have threads.
set_option Elab.async false

variable {s : State} {slot x batch : Nat} {p : Port} {byLoad : Bool}

/-! ### The whole commit list at once -/

theorem State.Stays.onPort {g : PortState → PortState} : s.Stays (s.onPort p g) := by cases p <;> exact .of

/-- The records a port lists given one condition, and the list emptied (R120, R121). -/
theorem Cu.unlistAll_filed {g : Record → Record} {h : PortState → PortState} {condition : Condition} {set : List Nat} (f : s.Filed)
    (hg : ∀ r, g r = { r with condition := condition, holdTimer := (g r).holdTimer }) (hc : condition = .opened ∨ condition = .scheduled)
    (hh : h (s.port p) = { s.port p with commitList := [], scheduled := set }) (ascending : set.Pairwise (· < ·))
    (mem : ∀ n, n ∈ set ↔ n ∈ (s.port p).scheduled ∨ condition = .scheduled ∧ n ∈ (s.port p).commitList) :
    ((s.modifyAll g (s.port p).commitList).onPort p h).Filed := by
  have wf := f.canonical.1
  have nodup := f.lists.commitList p
  have held : ∀ n, n ∈ (s.port p).commitList ↔ (s.record n).hold = p.hold ∧ (s.record n).condition = .frozen := fun n => (f.claims n).listed p
  have hu : ∀ n ∈ (s.port p).commitList, (s.record n).inUse = true :=
    fun n hn => f.inUse_of_hold (by rw [((held n).1 hn).1]; exact p.hold_ne_none)
  have record : ∀ n, ((s.modifyAll g (s.port p).commitList).onPort p h).record n =
      if n ∈ (s.port p).commitList then g (s.record n) else s.record n := fun n =>
    (State.onPort_record _ _ _ _).trans ((State.modifyAll_records wf nodup).2 n)
  have stays : s.Stays ((s.modifyAll g (s.port p).commitList).onPort p h) :=
    .trans (State.modifyAll_stays wf nodup hu (fun r => by rw [hg]; rfl) (fun r => by rw [hg]) (fun r => by rw [hg]) fun r => by rw [hg])
      .onPort
  have ports : ∀ q, (((s.modifyAll g (s.port p).commitList).onPort p h).port q).commitList = (if q = p then [] else (s.port q).commitList) ∧
      (((s.modifyAll g (s.port p).commitList).onPort p h).port q).scheduled = if q = p then set else (s.port q).scheduled := fun q => by
    by_cases hq : q = p
    · subst hq; rw [State.port_onPort, State.modifyAll_port, hh, if_pos rfl, if_pos rfl]; exact ⟨rfl, rfl⟩
    · rw [State.port_onPort_ne _ _ _ _ hq, State.modifyAll_port, if_neg hq, if_neg hq]; exact ⟨rfl, rfl⟩
  have load : ((s.modifyAll g (s.port p).commitList).onPort p h).load = s.load := (State.onPort_load _ _ _).trans State.modifyAll_load
  have canonical : ((s.modifyAll g (s.port p).commitList).onPort p h).canonical := by
    have := (State.modifyAll_work (s := s) (slots := (s.port p).commitList) (f := g) (fun r => by rw [hg]) fun r => by rw [hg]).canonical f.canonical
    cases p <;> exact this
  refine (f.standing.of_stays stays canonical ⟨fun q => ?_, fun q => ?_, load ▸ f.lists.load, load ▸ f.lists.loadScheduled⟩ fun n => ?_).filed
    fun n => ?_
  · rw [(ports q).1]; split <;> [exact .nil; exact f.lists.commitList q]
  · rw [(ports q).2]; split <;> [exact ascending; exact f.lists.scheduled q]
  · have claim := f.claims n
    by_cases hn : n ∈ (s.port p).commitList
    · obtain ⟨hold, frozen⟩ := (held n).1 hn
      have own := record n
      rw [if_pos hn, hg] at own
      refine ⟨?_, fun q => ?_, fun q => ?_, ?_⟩
      · rw [own, hold]; exact ⟨fun e => absurd e p.hold_ne_none, fun e => by rcases hc with h | h <;> cases h.symm.trans e⟩
      · rw [own, (ports q).1]
        have : ∀ {P : Prop}, ¬ (P ∧ condition = .frozen) := fun e => by rcases hc with h | h <;> cases h.symm.trans e.2
        split
        · exact ⟨nofun, fun e => absurd e this⟩
        · rename_i hq
          rw [claim.listed q, hold]
          exact ⟨fun e => absurd (Port.hold_inj e.1).symm hq, fun e => absurd e this⟩
      · rw [own, (ports q).2, hold]
        split
        · rename_i hq; subst hq
          rw [mem, claim.scheduled q, frozen]
          exact ⟨fun e => e.elim (fun e => (nomatch e.2)) fun e => ⟨rfl, e.1⟩, fun e => .inr ⟨e.2, hn⟩⟩
        · rename_i hq
          rw [claim.scheduled q, hold]
          exact ⟨fun e => absurd (Port.hold_inj e.1).symm hq, fun e => absurd (Port.hold_inj e.1).symm hq⟩
      · rw [own, hold]; exact fun e => absurd e p.hold_ne_none
    · refine claim.congr (by rw [record, if_neg hn]) (fun q => ?_) fun q => ?_
      · rw [(ports q).1]
        split
        · rename_i hq; subst hq; exact ⟨nofun, fun e => absurd e hn⟩
        · exact Iff.rfl
      · rw [(ports q).2]
        split
        · rename_i hq; subst hq; rw [mem]; exact or_iff_left fun e => hn e.2
        · exact Iff.rfl
  · by_cases hn : n ∈ (s.port p).commitList
    · have own := record n
      rw [if_pos hn, hg] at own
      have hold : (s.record n).hold ≠ .load := by rw [((held n).1 hn).1]; exact p.hold_ne_load
      exact (f.loads n).unheld hold (by rw [own]; exact hold) (by rw [own]) load
    · exact (f.loads n).congr (by rw [record, if_neg hn]) (by rw [load]) (by rw [load]) (by rw [load])

/-- A listed record returned to OPEN with its timer set (R119, R120). -/
def Record.reopened (timeout : Nat) (r : Record) : Record := { r with condition := .opened, holdTimer := timeout }

theorem Cu.reopenAll_eq (slots : List Nat) (s : State) :
    slots.foldl (fun acc n => Cu.reopen n acc) s = s.modifyAll (Record.reopened s.params.holdTimeout) slots := by
  induction slots generalizing s with
  | nil => rfl
  | cons n slots ih => exact ih (Cu.reopen n s)

theorem Cu.groupClearBody_filed {payload : List Byte} (f : s.Filed) : (Cu.groupClearBody p payload s).2.Filed := by
  simp only [Cu.groupClearBody]
  rw [Cu.reopenAll_eq]
  exact Cu.unlistAll_filed (condition := .opened) f (fun _ => rfl) (.inl rfl) rfl (f.lists.scheduled p) fun n => by simp

/-- A record made SCHEDULED (R115, R121). -/
def Record.scheduled (r : Record) : Record := { r with condition := .scheduled }

theorem Cu.scheduleAll_eq (p : Port) (slots : List Nat) (s : State) : slots.foldl (fun acc n => Cu.schedule p n acc) s =
    (s.modifyAll Record.scheduled slots).onPort p fun q => { q with scheduled := insertAll slots q.scheduled } := by
  induction slots generalizing s with
  | nil => cases p <;> rfl
  | cons n slots ih =>
    refine (ih (Cu.schedule p n s)).trans ?_
    have moved : ∀ (l : List Nat) (a : State) (g : PortState → PortState),
        (a.onPort p g).modifyAll Record.scheduled l = (a.modifyAll Record.scheduled l).onPort p g := fun l => by
      induction l with
      | nil => exact fun _ _ => rfl
      | cons m l ihl => exact fun a g => (by cases p <;> exact ihl (a.modify m Record.scheduled) g)
    rw [show Cu.schedule p n s = (s.modify n Record.scheduled).onPort p fun q => { q with scheduled := insertNat n q.scheduled } from rfl, moved]
    cases p <;> rfl

theorem Cu.groupCommitBody_filed {payload : List Byte} (f : s.Filed) : (Cu.groupCommitBody p payload s).2.Filed := by
  simp only [Cu.groupCommitBody]
  split
  · exact f
  · dsimp only
    rw [Cu.scheduleAll_eq]
    have two : ∀ (a : State) (g h : PortState → PortState), (a.onPort p g).onPort p h = a.onPort p (h ∘ g) := fun a g h => by cases p <;> rfl
    rw [two]
    exact Cu.unlistAll_filed (condition := .scheduled) (set := insertAll (s.port p).commitList (s.port p).scheduled) f (fun _ => rfl) (.inr rfl) rfl
      (insertAll_ascending (f.lists.scheduled p)) fun n => by rw [mem_insertAll]; simp [or_comm]

/-! ### Retirement (R4) -/

theorem Rt.retire_record_ne {k : Nat} (h : k ≠ slot) : (Rt.retire slot s).record k = s.record k := Store.get_put_ne h

theorem Rt.retire_record_same (w : Table.wf Record.blank s.store.records) : (Rt.retire slot s).record slot = Record.blank := Store.get_put_same w

theorem Rt.retire_lookup (w : Table.wf none s.index) (y : Nat) :
    (Rt.retire slot s).lookup y = if y = (s.record slot).identity then none else s.lookup y := by
  split
  · rename_i h; subst h; exact Table.get_set_same w
  · rename_i h; exact Table.get_set_ne h

/-- A record that is ABSENT and unheld, retired (R4). -/
theorem Rt.retire_standing (b : s.Standing) (hu : (s.record slot).inUse = true) (seat : (s.record slot).seat = none)
    (hold : (s.record slot).hold = .none) : (Rt.retire slot s).Standing := by
  have wf := b.canonical.1
  have own := Rt.retire_record_same (slot := slot) wf
  have other : ∀ n, n ≠ slot → (Rt.retire slot s).record n = s.record n := fun n hn => Rt.retire_record_ne hn
  have lookup := Rt.retire_lookup (slot := slot) b.canonical.2.1
  obtain ⟨nodup, mem, free, above⟩ := b.pool
  obtain ⟨entries, records⟩ := b.indexed
  have claim := b.claims slot
  refine ⟨⟨Rt.retire_work.canonical b.canonical, ⟨?_, fun n => ?_, fun n hn => ?_, fun n hn => ?_⟩, ⟨fun y e he => ?_, fun n hn => ?_⟩,
    ⟨b.lists.commitList, b.lists.scheduled, b.lists.load, b.lists.loadScheduled⟩, fun n => ?_⟩, fun m n => ?_⟩
  · refine List.nodup_append.2 ⟨nodup, by simp, fun a ha c hc e => ?_⟩
    rw [List.mem_singleton] at hc
    have := ((mem a).1 ha).2
    rw [e, hc, hu] at this
    cases this
  · by_cases hn : n = slot
    · subst hn
      rw [own]
      exact ⟨fun _ => ⟨b.lt hu, rfl⟩, fun _ => List.mem_append_right _ (List.mem_singleton.2 rfl)⟩
    · rw [other n hn, show (Rt.retire slot s).freeQueue = s.freeQueue ++ [slot] from rfl, List.mem_append, List.mem_singleton, mem]
      exact or_iff_left hn
  · by_cases h : n = slot
    · subst h; exact own
    · rw [other n h] at hn ⊢; exact free n hn
  · by_cases h : n = slot
    · subst h; exact own
    · rw [other n h]; exact above n hn
  · rw [lookup] at he
    split at he
    · cases he
    · rename_i hy
      have h := entries y e he
      have hne : e.slot ≠ slot := fun h' => hy (h' ▸ h.2.1.symm)
      rw [other e.slot hne]
      exact h
  · have hne : n ≠ slot := fun h => by rw [h, own] at hn; cases hn
    rw [other n hne] at hn ⊢
    rw [lookup, if_neg fun h => ?_]
    · exact records n hn
    · have h1 := records n hn
      rw [h, records slot hu] at h1
      exact hne (congrArg IndexEntry.slot (Option.some.inj h1)).symm
  · by_cases h : n = slot
    · subst h
      refine ⟨?_, fun p => ?_, fun p => ?_, ?_⟩
      · rw [own]; exact ⟨fun _ => rfl, fun _ => rfl⟩
      · rw [own]; exact (claim.listed p).trans (by rw [hold]; exact ⟨fun e => absurd e.1.symm p.hold_ne_none, fun e => absurd e.1.symm p.hold_ne_none⟩)
      · rw [own]; exact (claim.scheduled p).trans (by rw [hold]; exact ⟨fun e => absurd e.1.symm p.hold_ne_none, fun e => absurd e.1.symm p.hold_ne_none⟩)
      · rw [own]; exact fun _ => rfl
    · exact (b.claims n).congr (other n h) (fun p => by cases p <;> exact Iff.rfl) fun p => by cases p <;> exact Iff.rfl
  · show (s.seat m).kind = .placed n ↔ _
    by_cases h : n = slot
    · subst h; rw [own, b.seated m n, seat]; exact ⟨nofun, nofun⟩
    · rw [other n h]; exact b.seated m n

/-- The load's agreement at a slot that is retired unheld, and at every other. -/
theorem Rt.retire_loads {n : Nat} (w : Table.wf Record.blank s.store.records) (hold : (s.record slot).hold = .none) (h : s.LoadAt n) :
    (Rt.retire slot s).LoadAt n := by
  by_cases hn : n = slot
  · subst hn
    have own := Rt.retire_record_same (slot := n) w
    have unlisted : n ∉ s.load.list := fun e => by rw [h.listed, hold] at e; cases e
    have unset : n ∉ s.load.scheduled := fun e => by rw [h.scheduled, hold] at e; exact nomatch e.1
    refine ⟨?_, ?_, ?_, ?_⟩ <;> rw [own]
    · exact ⟨fun e => absurd e unlisted, nofun⟩
    · exact ⟨fun e => absurd e unset, fun e => nomatch e.1⟩
    · nofun
    · nofun
  · exact h.congr (Rt.retire_record_ne hn) Iff.rfl Iff.rfl rfl

theorem State.Standing.onNu (b : s.Standing) (g : Nu → Nu) : (s.onNu g).Standing :=
  b.of_stays .of b.canonical ⟨b.lists.commitList, b.lists.scheduled, b.lists.load, b.lists.loadScheduled⟩ fun n => (b.claims n).congr rfl (fun p => by cases p <;> exact Iff.rfl) fun p => by cases p <;> exact Iff.rfl

theorem State.LoadAt.onNu {n : Nat} (h : s.LoadAt n) (g : Nu → Nu) : (s.onNu g).LoadAt n := h.congr rfl Iff.rfl Iff.rfl rfl

theorem Rt.retireBody_filed {payload : List Byte} (f : s.Filed) : (Rt.retireBody p payload s).2.Filed := withSlot_filed f fun slot hu => by
  dsimp only
  split
  · exact f
  · rename_i hold
    have hold := Decidable.not_not.1 hold
    split
    · exact f
    · rename_i seat
      split
      · exact f
      · exact ((Rt.retire_standing f.standing hu seat hold).onNu _).filed fun n => (Rt.retire_loads f.canonical.1 hold (f.loads n)).onNu _

/-! ### Creation and allocation (R3, R13, R14) -/

/-- A record just created in a slot: the directory agrees but for what the load has made, and the slot's record is ABSENT and unheld (R3). -/
structure Rt.Entered (s : State) (slot identity : Nat) (byLoad : Bool) (t : State) : Prop where
  standing : t.Standing
  loads : ∀ n, n ≠ slot → t.LoadAt n
  load : t.load = s.load
  seats : t.seats = s.seats
  unlisted : slot ∉ s.load.list ∧ slot ∉ s.load.scheduled
  inUse : (t.record slot).inUse = true
  identity : (t.record slot).identity = identity
  seat : (t.record slot).seat = none
  hold : (t.record slot).hold = .none
  created : (t.record slot).createdByLoad = byLoad

theorem Rt.Entered.filed {t : State} (e : Rt.Entered s slot x false t) : t.Filed := e.standing.filed fun n => by
  by_cases hn : n = slot
  · subst hn
    refine ⟨?_, ?_, ?_, ?_⟩
    · rw [e.load, e.hold]; exact ⟨fun h => absurd h e.unlisted.1, nofun⟩
    · rw [e.load, e.hold]; exact ⟨fun h => absurd h e.unlisted.2, fun h => nomatch h.1⟩
    · rw [e.created]; nofun
    · rw [e.hold]; nofun
  · exact e.loads n hn

theorem Rt.enter_record_ne {k : Nat} (h : k ≠ slot) : (Rt.enter slot x batch byLoad s).record k = s.record k := Store.get_put_ne h

theorem Rt.enter_record_same (w : Table.wf Record.blank s.store.records) :
    (Rt.enter slot x batch byLoad s).record slot = Record.created x batch s.ftu.frameCount byLoad := Store.get_put_same w

theorem Rt.enter_lookup (w : Table.wf none s.index) (y : Nat) :
    (Rt.enter slot x batch byLoad s).lookup y = if y = x then some ⟨slot, batch⟩ else s.lookup y := by
  split
  · rename_i h; subst h; exact Table.get_set_same w
  · rename_i h; exact Table.get_set_ne h

/-- The record and its index entry written in a slot taken from the head of the queue (R3). -/
theorem Rt.enter_entered {rest : List Nat} (f : s.Filed) (hq : s.freeQueue = slot :: rest) (hx : s.lookup x = none) :
    Rt.Entered s slot x byLoad (Rt.enter slot x batch byLoad { s with freeQueue := rest }) := by
  have wf : Table.wf Record.blank s.store.records := f.canonical.1
  have own : (Rt.enter slot x batch byLoad { s with freeQueue := rest }).record slot = Record.created x batch s.ftu.frameCount byLoad :=
    Rt.enter_record_same wf
  have other : ∀ n, n ≠ slot → (Rt.enter slot x batch byLoad { s with freeQueue := rest }).record n = s.record n := fun n hn =>
    Rt.enter_record_ne hn
  have lookup : ∀ y, (Rt.enter slot x batch byLoad { s with freeQueue := rest }).lookup y = if y = x then some ⟨slot, batch⟩ else s.lookup y :=
    Rt.enter_lookup f.canonical.2.1
  obtain ⟨nodup, mem, free, above⟩ := f.pool
  obtain ⟨entries, records⟩ := f.indexed
  obtain ⟨lt, unused⟩ := (mem slot).1 (hq ▸ List.mem_cons_self)
  have blank := free slot unused
  have claim := f.claims slot
  have load := f.loads slot
  rw [hq, List.nodup_cons] at nodup
  have canonical : (Rt.enter slot x batch byLoad { s with freeQueue := rest }).canonical :=
    let ⟨c1, c2, c⟩ := f.canonical
    ⟨Table.wf_set c1, Table.wf_set c2, c⟩
  refine ⟨⟨⟨canonical, ⟨nodup.2, fun n => ?_, fun n hn => ?_, fun n hn => ?_⟩, ⟨fun y e he => ?_, fun n hn => ?_⟩,
    ⟨f.lists.commitList, f.lists.scheduled, f.lists.load, f.lists.loadScheduled⟩, fun n => ?_⟩, fun m n => ?_⟩,
    fun n hn => (f.loads n).congr (other n hn) Iff.rfl Iff.rfl rfl, rfl, rfl, ⟨fun e => ?_, fun e => ?_⟩, by rw [own]; rfl, by rw [own]; rfl,
    by rw [own]; rfl, by rw [own]; rfl, by rw [own]; rfl⟩
  · by_cases h : n = slot
    · subst h; rw [own]; exact ⟨fun e => absurd e nodup.1, fun e => nomatch e.2⟩
    · have := mem n
      rw [hq, List.mem_cons, or_iff_right h] at this
      rw [other n h]
      exact this
  · by_cases h : n = slot
    · subst h; rw [own] at hn; cases hn
    · rw [other n h] at hn ⊢; exact free n hn
  · rw [other n (by omega)]; exact above n hn
  · rw [lookup] at he
    split at he
    · rename_i hy; subst hy; cases he; rw [own]; exact ⟨rfl, rfl, rfl⟩
    · have h := entries y e he
      have hne : e.slot ≠ slot := fun h' => by rw [h', unused] at h; exact nomatch h.1
      rw [other e.slot hne]
      exact h
  · by_cases h : n = slot
    · subst h; rw [own, lookup]; exact if_pos rfl
    · rw [other n h] at hn ⊢
      have listed := records n hn
      rw [lookup, if_neg fun e => by rw [e, hx] at listed; cases listed]
      exact listed
  · by_cases h : n = slot
    · subst h
      refine ⟨?_, fun p => ?_, fun p => ?_, ?_⟩
      · rw [own]; exact ⟨fun _ => rfl, fun _ => rfl⟩
      · rw [own]
        exact Iff.trans (by cases p <;> exact Iff.rfl) ((claim.listed p).trans (by rw [blank]; exact Iff.rfl))
      · rw [own]
        exact Iff.trans (by cases p <;> exact Iff.rfl) ((claim.scheduled p).trans (by rw [blank]; exact Iff.rfl))
      · rw [own]; exact fun _ => rfl
    · exact (f.claims n).congr (other n h) (fun p => by cases p <;> exact Iff.rfl) fun p => by cases p <;> exact Iff.rfl
  · show (s.seat m).kind = .placed n ↔ _
    by_cases h : n = slot
    · subst h; rw [own, f.seated m n, blank]; exact ⟨nofun, nofun⟩
    · rw [other n h]; exact f.seated m n
  · rw [load.listed, blank] at e; cases e
  · rw [load.scheduled, blank] at e; exact nomatch e.1

theorem Store.Touches.retarget {cx : Ctx} {st : Store} (after : After) (bank : Bank) (hu : (st.get slot).inUse = true) :
    Store.Touches cx slot st (Dt.retarget cx after slot bank st) :=
  ⟨(Store.Kept.closure cx slot).retarget _ _ _, Dt.retarget_local _ _, (Store.FiledAt.closure cx slot).retarget _ _ _,
    fun h => by rw [hu] at h; cases h⟩

theorem Rt.Entered.touches {t u : State} (e : Rt.Entered s slot x byLoad t) (h : t.Touches slot u) (load : u.load = t.load := by exact rfl) :
    Rt.Entered s slot x byLoad u := by
  have r := h.same.records slot
  exact ⟨h.standing e.standing, fun n hn => h.same.loadAt (e.loads n hn), load.trans e.load, h.seats.trans e.seats, e.unlisted,
    (h.same.inUse slot).trans e.inUse, r.identity.trans e.identity, (h.seat_same e.standing.canonical e.standing.seated slot).trans e.seat,
    r.hold.trans e.hold, r.created.trans e.created⟩

/-- A creation in a slot taken from the head of the queue (R3). -/
theorem Rt.create_entered {rest : List Nat} (f : s.Filed) (hq : s.freeQueue = slot :: rest) (hx : s.lookup x = none) :
    Rt.Entered s slot x byLoad (Rt.create slot x batch byLoad { s with freeQueue := rest }) := by
  have e := Rt.enter_entered (batch := batch) (byLoad := byLoad) f hq hx
  rw [Rt.create_eq]
  exact e.touches (.of_store (.retarget _ _ e.inUse) e.standing.toBased)

theorem Rt.Entered.onNu {t : State} (e : Rt.Entered s slot x byLoad t) (g : Nu → Nu) : Rt.Entered s slot x byLoad (t.onNu g) :=
  ⟨e.standing.onNu g, fun n hn => (e.loads n hn).onNu g, e.load, e.seats, e.unlisted, e.inUse, e.identity, e.seat, e.hold, e.created⟩

/-- A record that an auto-reclaim takes is eligible (R14). -/
theorem Rt.oldest_mayReclaim {n : Nat} (h : Rt.oldest s = some n) : s.mayReclaim n := by
  have all : ∀ (l : List Nat) (best : Option Nat), (∀ m, best = some m → s.mayReclaim m) → (∀ m ∈ l, s.mayReclaim m) →
      ∀ m, l.foldl (fun best n => match best with
        | none => some n
        | some m => if (s.record m).age s.ftu.frameCount < (s.record n).age s.ftu.frameCount then some n else some m) best = some m →
      s.mayReclaim m := by
    intro l
    induction l with
    | nil => exact fun best hb _ => hb
    | cons k l ih =>
      intro best hb hl
      refine ih _ (fun m hm => ?_) fun m hm => hl m (List.mem_cons_of_mem _ hm)
      cases best with
      | none => cases hm; exact hl k List.mem_cons_self
      | some b =>
        simp only at hm
        split at hm <;> cases hm
        · exact hl k List.mem_cons_self
        · exact hb _ rfl
  exact all _ none nofun (fun m hm => Record.reclaimable_iff.1 (List.mem_filter.1 hm).2) n h

/-- An allocation with the creation that follows it (R13). -/
theorem Rt.allocateCreate_entered {t : State} {retired : Nat} (f : s.Filed) (hx : s.lookup x = none)
    (h : Rt.allocateCreate x batch byLoad s = (some (slot, retired), t)) : Rt.Entered s slot x byLoad t := by
  simp only [Rt.allocateCreate, Rt.allocate] at h
  split at h
  · cases h
  · rename_i hall
    cases h
    refine .onNu ?_ _
    split at hall
    · rename_i hq
      cases hall
      exact Rt.create_entered f hq hx
    · rename_i hq
      split at hall
      · split at hall
        · cases hall
        · rename_i victim hv
          obtain ⟨hu, seat, hold, _, _⟩ := Rt.oldest_mayReclaim hv
          have retired : ((Rt.retire victim s).count .reclaims).Filed :=
            ((Rt.retire_standing f.standing hu seat hold).onNu _).filed fun n => (Rt.retire_loads f.canonical.1 hold (f.loads n)).onNu _
          have lookup : ((Rt.retire victim s).count .reclaims).lookup x = none := by
            refine (Rt.retire_lookup f.canonical.2.1 x).trans ?_
            rw [hx, ite_self]
          split at hall
          · cases hall
          · rename_i hq'
            cases hall
            have e := Rt.create_entered (batch := batch) (byLoad := byLoad) retired hq' lookup
            exact ⟨e.standing, e.loads, e.load, e.seats, e.unlisted, e.inUse, e.identity, e.seat, e.hold, e.created⟩
      · cases hall

end Sys2Proof.Machine
end

section
/-! PROOF. Reports, the seat commands and the bulk load leave the directory in agreement (R30 to R47, R161 to R167). -/
namespace Sys2Proof.Machine

-- One declaration after another: as one text the file has more of them than it may have threads.
set_option Elab.async false

variable {s : State} {p : Port} {payload : List Byte}

/-! ### Reports -/

/-- The arrival of a record that is at no other seat. -/
theorem Pu.arriveHere_filed {slot seat : Nat} (f : s.Filed) (hu : (s.record slot).inUse = true)
    (elsewhere : ∀ n, n ≠ seat → (s.record slot).seat ≠ some n) (temperature : Option Int) (hours : Nat) (counts : Bool) :
    (Dt.offer slot temperature hours counts (Pu.seatArrival seat slot s)).Filed :=
  Pu.arriveAt_filed f (.refl s) f.toBased hu (fun n k _ => f.seated n k) (fun n hn h => elsewhere n hn ((f.seated n slot).1 h)) _ _ _

theorem Pu.arrive_filed {seat : Nat} (f : s.Filed) (r : Report) (temperature : Option Int) (counts : Bool) : (Pu.arrive seat r temperature counts s).Filed := by
  simp only [Pu.arrive]
  split
  · rename_i e he
    have hu : (s.record e.slot).inUse = true := (f.indexed.1 _ e he).1
    split
    · rename_i hn
      exact Pu.arriveHere_filed f hu (fun n _ h => by rw [hn] at h; cases h) _ _ _
    · rename_i old hold
      split
      · rename_i h
        subst h
        exact Pu.arriveHere_filed f hu (fun n hne h => hne (Option.some.inj (h.symm.trans hold))) _ _ _
      · split
        · exact Pu.unrecorded_filed f _ _ _ _
        · obtain ⟨same, based, others, elsewhere⟩ := Pu.leave_moves f hold
          exact Pu.arriveAt_filed f same based ((same.inUse _).trans hu) others (fun n _ => elsewhere n) _ _ _
  · rename_i hx
    split
    · split
      · rename_i halloc
        have entered := Rt.allocateCreate_entered f hx halloc
        exact Pu.arriveHere_filed entered.filed entered.inUse (fun n _ h => by rw [entered.seat] at h; cases h) _ _ _
      · exact Pu.unrecorded_filed f _ _ _ _
    · exact Pu.unrecorded_filed f _ _ _ _

theorem Pu.confirm_filed {slot seat : Nat} (f : s.Filed) (hk : (s.seat seat).kind = .placed slot) (temperature : Option Int) (hours : Nat) :
    (Pu.confirm seat slot temperature hours s).Filed := by
  have placed : (s.setSeat seat ⟨.placed slot, .reported, .fresh, 0⟩).Filed := f.setSeat_kind hk.symm
  have hu : (s.record slot).inUse = true := f.inUse_of_seat ((f.seated seat slot).1 hk)
  have first := State.read_touches (slot := slot) placed.toBased .pu isStateWord
  have hu1 := (first.same.inUse slot).trans hu
  have second := State.modify_touches
    (f := fun r => { r with lastSeen := (s.setSeat seat ⟨.placed slot, .reported, .fresh, 0⟩).ftu.frameCount }) (first.based placed.toBased) hu1
    ⟨.of_inUse hu1 hu1, rfl⟩
  exact Dt.offer_filed (second.filed (first.filed placed)) ((second.same.inUse slot).trans hu1) _ _ _

theorem Pu.handle_filed (f : s.Filed) (r : Report) : (Pu.handle r s).Filed := by
  have gapped : (if r.gap then Pu.gap r.distPort s else s).Filed := .ite (fun _ => Pu.gap_filed f _) fun _ => f
  simp only [Pu.handle]
  generalize (if r.gap then Pu.gap r.distPort s else s) = a at gapped
  split
  · exact Pu.arrive_filed gapped _ _ _
  · exact Pu.empty_filed gapped
  · split
    · rename_i hk
      exact .ite (fun _ => Pu.confirm_filed gapped hk _ _) fun _ => Pu.arrive_filed gapped _ _ _
    · exact Pu.arrive_filed gapped _ _ _

theorem Pu.takeHead_filed (f : s.Filed) (isKind : ReportKind → Bool) : (Pu.takeHead isKind s).Filed := by
  simp only [Pu.takeHead]
  split
  · exact f
  · rename_i r rest _
    have taken : State.Filed { s with trl := { s.trl with queue := rest } } := f.of id
    exact .ite (fun _ => Pu.handle_filed taken r) fun _ => f

/-! ### Seat commands and CREATE_RECORD -/

theorem Pu.placeBody_filed (f : s.Filed) : (Pu.placeBody p payload s).2.Filed := by
  simp only [Pu.placeBody]
  generalize natAt payload 0 2 = seat
  generalize natAt payload 2 2 = slot
  split
  · exact f
  · split
    · exact f
    · split
      · exact f
      · rename_i hu
        have hu : (s.record slot).inUse = true := by simpa using hu
        split
        · rename_i absent
          have displaced := Pu.displace_displaced (seat := seat) (keep := none) f.toBased fun n k _ => f.seated n k
          have based := displaced.same.based displaced.work.canonical f.toBased
          obtain ⟨moved, _⟩ := State.writeStateWord_moves based ((displaced.same.inUse slot).trans hu) .pu
            (f := fun r => { r with seat := some seat, lastSeen := (Pu.displace seat none s).ftu.frameCount }) (place := some seat)
            (fun r hr => .of_inUse hr hr) (fun _ => rfl) (fun _ => rfl) fun _ => rfl
          have kinds : ∀ n, (Pu.displace seat none s).seat n = s.seat n := fun n => by rw [State.seat, displaced.seats]; rfl
          exact moved.setSeat_filed f displaced.same based rfl (fun n k _ => by rw [kinds]; exact displaced.others n k nofun)
            fun n _ h => by rw [kinds, f.seated n slot, absent] at h; cases h
        · rename_i here hseat
          split
          · rename_i e
            subst e
            exact f.setSeat_kind ((f.seated _ slot).2 hseat).symm
          · exact f

theorem Pu.vacateBody_filed (f : s.Filed) : (Pu.vacateBody p payload s).2.Filed := by
  simp only [Pu.vacateBody]
  split
  · exact f
  · exact Pu.empty_filed f

/-- A record that is ABSENT placed at a seat that is UNRECORDED: first the seat's entry, then the record (R19). -/
theorem Rt.place_filed {slot n : Nat} {e : Seat} {g : Record → Record} (f : s.Filed) (hu : (s.record slot).inUse = true) (absent : (s.record slot).seat = none)
    (empty : ∀ k, (s.seat n).kind ≠ .placed k) (he : e.kind = .placed slot)
    (hg : ∀ r, g r = { r with seat := some n, lastSeen := (g r).lastSeen }) : ((s.setSeat n e).writeStateWord .pu slot g).Filed := by
  have wf : Table.wf Seat.vacant s.seats := f.canonical.2.2.2.1
  have first : s.Same (s.setSeat n e) := .of
  have based := first.based (State.Work.setSeat n e).canonical f.toBased
  obtain ⟨moved, _⟩ := State.writeStateWord_moves (f := g) (place := some n) (slot := slot) based hu .pu
    (fun r hr => .of_inUse hr (by rw [hg]; exact hr) (by rw [hg]) (by rw [hg]) (by rw [hg]) (by rw [hg]) (by rw [hg]) (by rw [hg]; exact fun _ => rfl))
    (fun r => by rw [hg]) (fun r => by rw [hg]) fun r => by rw [hg]
  have seats : ∀ m, ((s.setSeat n e).writeStateWord .pu slot g).seat m = (s.setSeat n e).seat m := fun m => by
    rw [State.seat, moved.seats]; rfl
  refine ⟨moved.same.based moved.work.canonical based, fun m k => ?_, (first.trans moved.same).loads f.loads⟩
  rw [seats]
  by_cases hm : m = n
  · subst hm
    rw [State.seat_setSeat_same _ wf, he]
    by_cases hk : k = slot
    · subst hk; rw [moved.seat]; exact ⟨fun _ => rfl, fun _ => rfl⟩
    · rw [moved.other k hk]
      exact ⟨fun h => absurd (SeatKind.placed.inj h).symm hk, fun h => absurd ((f.seated m k).2 h) (empty k)⟩
  · rw [State.seat_setSeat_ne _ hm]
    by_cases hk : k = slot
    · subst hk
      rw [moved.seat, f.seated m k, absent]
      exact ⟨nofun, fun h => absurd (Option.some.inj h).symm hm⟩
    · rw [moved.other k hk]; exact f.seated m k

theorem Rt.createBody_filed (f : s.Filed) : (Rt.createBody p payload s).2.Filed := by
  simp only [Rt.createBody]
  split
  · exact f
  · split
    · exact f
    · rename_i hx
      split
      · exact f
      · rename_i t halloc
        have entered := Rt.allocateCreate_entered f hx halloc
        split
        · exact entered.filed
        · rename_i m hm
          refine Rt.place_filed entered.filed entered.inUse entered.seat (fun k hk => ?_) rfl fun _ => rfl
          have := Table.findKey_some entered.standing.canonical.2.2.2.1 hm
          rw [show (Table.get Seat.vacant _ m).kind = .placed k from hk] at this
          cases this

/-! ### The load's end -/

/-- A load ended leaves the directory in agreement where no record is held by it and none is marked as made by it (R165, R167). -/
theorem State.Standing.ended (b : s.Standing) (held : ∀ n, (s.record n).hold ≠ .load) (made : ∀ n, (s.record n).createdByLoad = false)
    {load : Load} (list : load.list = []) (scheduled : load.scheduled = []) : State.Filed { s with load := load } := by
  have standing : State.Standing { s with load := load } :=
    b.of_stays .of b.canonical
      ⟨b.lists.commitList, b.lists.scheduled, by simp [list], by simp [scheduled]⟩
      fun n => (b.claims n).congr rfl (fun p => by cases p <;> exact Iff.rfl) fun p => by cases p <;> exact Iff.rfl
  refine standing.filed fun n => ⟨?_, ?_, fun h => ?_, fun h => absurd h (held n)⟩
  · exact ⟨fun h => (by rw [show load.list = [] from list] at h; cases h), fun h => absurd h (held n)⟩
  · exact ⟨fun h => (by rw [show load.scheduled = [] from scheduled] at h; cases h), fun h => absurd h.1 (held n)⟩
  · exact nomatch h.symm.trans (made n)

/-- A slot whose claim and places in the lists are as before agrees as before. -/
theorem State.ClaimAt.of_fields {t : State} {n : Nat} (h : s.ClaimAt n) (hold : (t.record n).hold = (s.record n).hold)
    (condition : (t.record n).condition = (s.record n).condition) (damaged : (t.record n).pendingDamaged = (s.record n).pendingDamaged)
    (hc : ∀ p, (t.port p).commitList = (s.port p).commitList) (hs : ∀ p, (t.port p).scheduled = (s.port p).scheduled) : t.ClaimAt n := by
  refine ⟨?_, fun p => ?_, fun p => ?_, ?_⟩
  · rw [hold, condition]; exact h.closed
  · rw [hc, hold, condition]; exact h.listed p
  · rw [hs, hold, condition]; exact h.scheduled p
  · rw [hold, damaged]; exact h.undamaged

/-- A record kept after a load: the mark of the load's making cleared (R165, R167). -/
def Record.kept (r : Record) : Record := { r with createdByLoad := false }

theorem Bl.settle_eq (slots : List Nat) (s : State) : Bl.settle slots s = s.modifyAll Record.kept slots := rfl

theorem Bl.settle_standing {slots : List Nat} (b : s.Standing) (nodup : slots.Nodup) (hu : ∀ n ∈ slots, (s.record n).inUse = true) :
    (Bl.settle slots s).Standing := by
  rw [Bl.settle_eq]
  have record := (State.modifyAll_records (f := Record.kept) b.canonical.1 nodup).2
  refine b.of_stays (State.modifyAll_stays b.canonical.1 nodup hu) ((Bl.settle_work slots).canonical b.canonical)
    ⟨fun p => by rw [State.modifyAll_port]; exact b.lists.commitList p, fun p => by rw [State.modifyAll_port]; exact b.lists.scheduled p,
      by rw [State.modifyAll_load]; exact b.lists.load, by rw [State.modifyAll_load]; exact b.lists.loadScheduled⟩ fun n => ?_
  refine (b.claims n).of_fields ?_ ?_ ?_ (fun p => by rw [State.modifyAll_port]) fun p => by rw [State.modifyAll_port]
  all_goals
    rw [record]
    split <;> rfl

/-- Several records that are ABSENT and unheld, retired (R4, R167). -/
theorem Rt.retireAll_standing {slots : List Nat} (b : s.Standing) (nodup : slots.Nodup)
    (h : ∀ n ∈ slots, (s.record n).inUse = true ∧ (s.record n).seat = none ∧ (s.record n).hold = .none) :
    (slots.foldl (fun acc n => Rt.retireEvaluated n acc) s).Standing ∧
      ∀ n, (slots.foldl (fun acc n => Rt.retireEvaluated n acc) s).record n = if n ∈ slots then Record.blank else s.record n := by
  induction slots generalizing s with
  | nil => exact ⟨b, fun _ => rfl⟩
  | cons m slots ih =>
    rw [List.nodup_cons] at nodup
    obtain ⟨hu, seat, hold⟩ := h m List.mem_cons_self
    have same : ∀ n, n ≠ m → (Rt.retireEvaluated m s).record n = s.record n := fun n => Rt.retireEvaluated_record_ne
    obtain ⟨standing, record⟩ := ih (s := Rt.retireEvaluated m s) ((Rt.retire_standing b hu seat hold).onNu _) nodup.2 fun n hn => by
      rw [same n fun e => nodup.1 (e ▸ hn)]
      exact h n (List.mem_cons_of_mem _ hn)
    refine ⟨standing, fun n => (record n).trans ?_⟩
    by_cases hn : n = m
    · subst hn
      rw [if_neg nodup.1, if_pos List.mem_cons_self, Rt.retireEvaluated_record_same b.canonical.1]
    · rw [same n hn]
      simp [hn]

/-- An abandonment of the load leaves the directory in agreement (R167). -/
theorem Bl.abort_filed (f : s.Filed) (reason : Reason) : (Bl.abort reason s).2.Filed := by
  have listed := fun n => (f.loads n).listed
  obtain ⟨b1, ends, none, others⟩ := Cu.discardAll_ends f.standing fun n hn =>
    f.inUse_of_hold (n := n) (by rw [(listed n).1 hn]; nofun)
  have nodup := f.lists.load
  rw [Bl.abort_eq]
  generalize Cu.discardAll s.load.list s = s1 at b1 ends none others
  dsimp only
  generalize hmade : (s.load.list.filter fun n => (s1.record n).loadMade) = made
  have mem : ∀ n, n ∈ made ↔ n ∈ s.load.list ∧ (s1.record n).createdByLoad = true := fun n => by
    rw [← hmade, List.mem_filter]; exact Iff.rfl
  have inUse : ∀ n ∈ s.load.list, (s1.record n).inUse = true := fun n hn =>
    (ends.stays.inUse n).trans (f.inUse_of_hold (by rw [(listed n).1 hn]; nofun))
  have goes : ∀ n, n ∈ (made.filter fun n => (s1.record n).seat.isNone) ↔ n ∈ made ∧ (s1.record n).seat = Option.none := fun n => by
    rw [List.mem_filter, Option.isNone_iff_eq_none]
  have nodupMade : made.Nodup := hmade ▸ nodup.filter _
  obtain ⟨b2, record2⟩ := Rt.retireAll_standing b1 (nodupMade.filter _) fun n hn =>
    have ⟨hm, seat⟩ := (goes n).1 hn
    ⟨inUse n ((mem n).1 hm).1, seat, none n ((mem n).1 hm).1⟩
  generalize List.foldl (fun acc n => Rt.retireEvaluated n acc) s1 _ = s2 at b2 record2
  have stays : ∀ n, n ∈ (made.filter fun n => !(s1.record n).seat.isNone) ↔ n ∈ made ∧ (s1.record n).seat ≠ Option.none := fun n => by
    rw [List.mem_filter, Bool.not_eq_true', ← Bool.not_eq_true, Option.isNone_iff_eq_none]
  have nodupStays := nodupMade.filter fun n => !(s1.record n).seat.isNone
  have b3 := Bl.settle_standing b2 nodupStays fun n hn => by
    have ⟨hm, seat⟩ := (stays n).1 hn
    rw [record2, if_neg fun h => seat ((goes n).1 h).2]
    exact inUse n ((mem n).1 hm).1
  have record3 := (State.modifyAll_records (f := Record.kept) b2.canonical.1 nodupStays).2
  rw [← Bl.settle_eq] at record3
  generalize Bl.settle _ s2 = s3 at b3 record3
  have held1 : ∀ n, (s1.record n).hold ≠ .load := fun n => by
    by_cases hn : n ∈ s.load.list
    · rw [none n hn]; nofun
    · rw [others n hn]; exact fun h => hn ((listed n).2 h)
  have held : ∀ n, (s3.record n).hold ≠ .load := fun n => by
    rw [record3, record2]
    split <;> split <;> first | exact held1 n | nofun
  have unmade : ∀ n, (s3.record n).createdByLoad = false := fun n => by
    rw [record3, record2]
    split
    · rfl
    · rename_i hstay
      split
      · rfl
      · rename_i hgo
        by_contra hc
        have hc : (s1.record n).createdByLoad = true := by simpa using hc
        have hm : n ∈ made := (mem n).2 ⟨by_contra fun hn => hn ((f.loads n).created (others n hn ▸ hc)), hc⟩
        by_cases seat : (s1.record n).seat = Option.none
        · exact hgo ((goes n).2 ⟨hm, seat⟩)
        · exact hstay ((stays n).2 ⟨hm, seat⟩)
  have ended := b3.ended held unmade (load := { s3.load with
    state := .aborted, count := s.load.list.length, list := [], committed := 0, failed := 0, firstFailed := .none, reason := reason,
    scheduled := [] }) rfl rfl
  simp only [Bl.close]
  split
  · exact ended.onNu _
  · exact ended

theorem Bl.timeout_filed (f : s.Filed) : (Bl.timeout s).Filed := .ite (fun _ => Bl.abort_filed f _) fun _ => f

theorem Bl.detached_filed (f : s.Filed) : (Bl.detached s).Filed := .ite (fun _ => Bl.abort_filed f _) fun _ => f

theorem Bl.strike_filed (f : s.Filed) : (Bl.strike s).2.Filed := by
  simp only [Bl.strike]
  split
  · exact Bl.abort_filed f _
  · exact f

theorem Bl.abortBody_filed (f : s.Filed) : (Bl.abortBody p payload s).2.Filed := by
  simp only [Bl.abortBody]
  split
  · exact f
  · split
    · exact f
    · split
      · exact f
      · exact Bl.abort_filed f _

theorem Bl.age_filed (f : s.Filed) : (Bl.age s).Filed := .ite (fun _ => f.of id) fun _ => f

/-- A load completed at a boundary (R165). -/
theorem Bl.complete_filed (f : s.Filed) : (Bl.complete s).Filed := by
  by_cases h : s.load.state = .committing
  · have held := fun n => (f.loads n).scheduled
    obtain ⟨b1, ends, none, others⟩ := Cu.applySet_ends f.standing fun n hn =>
      f.inUse_of_hold (n := n) (by rw [((held n).1 hn).1]; nofun)
    rw [Bl.complete_eq h]
    dsimp only
    generalize (Cu.applySet s.load.scheduled s).1 = result
    generalize (Cu.applySet s.load.scheduled s).2 = s1 at b1 ends none others
    have listed := fun n => (f.loads n).listed
    have b2 := Bl.settle_standing b1 f.lists.load fun n hn =>
      (ends.stays.inUse n).trans (f.inUse_of_hold (by rw [(listed n).1 hn]; nofun))
    have record2 := (State.modifyAll_records (f := Record.kept) b1.canonical.1 f.lists.load).2
    rw [← Bl.settle_eq] at record2
    generalize Bl.settle s.load.list s1 = s2 at b2 record2
    have held1 : ∀ n, (s1.record n).hold ≠ .load := fun n hl => by
      by_cases hn : n ∈ s.load.scheduled
      · rw [none n hn] at hl; cases hl
      · rw [others n hn] at hl
        rcases (f.loads n).running hl with ⟨active, _⟩ | ⟨_, condition⟩
        · rw [h] at active; cases active
        · exact hn ((held n).2 ⟨hl, condition⟩)
    have ended : (Bl.finish result s.load.list.length s2).Filed := b2.ended
      (fun n => by rw [record2]; split <;> exact held1 n)
      (fun n => by
        rw [record2]
        split
        · rfl
        · rename_i hn
          rw [ends.created]
          by_contra hc
          exact hn ((f.loads n).created (by simpa using hc)))
      rfl rfl
    cases s.load.owner
    · exact ended
    · exact ended.onNu _
  · rw [Bl.complete_idle h]; exact f

end Sys2Proof.Machine
end

section
/-! PROOF. The load commands, the boundary, the Frame Timing Unit, the ports and the parameters leave the directory in agreement: every step keeps it
(R10, R12, R27, R104). -/
namespace Sys2Proof.Machine

-- One declaration after another: as one text the file has more of them than it may have threads.
set_option Elab.async false

variable {s : State} {slot : Nat}

/-! ### The load's beginning -/

/-- While no load is in progress no record is held by it or marked as made by it (R160). -/
theorem State.Filed.unloaded (f : s.Filed) (h : s.load.inProgress = false) :
    (∀ n, (s.record n).hold ≠ .load) ∧ ∀ n, (s.record n).createdByLoad = false := by
  have held : ∀ n, (s.record n).hold ≠ .load := fun n hl => by
    rcases (f.loads n).running hl with ⟨e, _⟩ | ⟨e, _⟩ <;> simp [Load.inProgress, e] at h
  refine ⟨held, fun n => ?_⟩
  by_contra hc
  exact held n ((f.loads n).listed.1 ((f.loads n).created (by simpa using hc)))

theorem Bl.beginBody_filed {p : Port} {payload : List Byte} (f : s.Filed) : (Bl.beginBody p payload s).2.Filed := by
  simp only [Bl.beginBody]
  split
  · exact f
  · split
    · exact f
    · rename_i h
      obtain ⟨held, made⟩ := f.unloaded (by simpa using h)
      exact f.standing.ended held made (load := { Load.reset with
        state := .active, owner := some p, remaining := natAt payload 0 2, timer := s.params.holdTimeout }) rfl rfl

/-! ### A record taken into the load -/

/-- A record that an ACTIVE load may take: unheld, on no list of the load; every other agrees with the load (R162). -/
structure Bl.Ready (s : State) (slot : Nat) : Prop where
  standing : s.Standing
  loads : ∀ n, n ≠ slot → s.LoadAt n
  unlisted : slot ∉ s.load.list ∧ slot ∉ s.load.scheduled
  inUse : (s.record slot).inUse = true
  hold : (s.record slot).hold = .none
  active : s.load.state = .active

theorem State.Filed.ready (f : s.Filed) (hu : (s.record slot).inUse = true) (hold : (s.record slot).hold = .none) (active : s.load.state = .active) :
    Bl.Ready s slot :=
  ⟨f.standing, fun n _ => f.loads n, ⟨fun h => (nomatch hold.symm.trans ((f.loads slot).listed.1 h)),
    fun h => (nomatch hold.symm.trans ((f.loads slot).scheduled.1 h).1)⟩, hu, hold, active⟩

theorem Rt.Entered.ready {t : State} {x : Nat} (e : Rt.Entered s slot x true t) (active : s.load.state = .active) : Bl.Ready t slot :=
  ⟨e.standing, e.loads, by rw [e.load]; exact e.unlisted, e.inUse, e.hold, by rw [e.load]; exact active⟩

/-- A record with its claim by the load (R163). -/
def Record.loaded (crc : Half) (r : Record) : Record :=
  { r with hold := .load, condition := .frozen, pendingDamaged := false, expectedCrc := crc }

/-- A record claimed by the load, and put at the tail of its list (R163). -/
theorem Bl.take_filed (h : Bl.Ready s slot) (crc : Half) {load : Load} (list : load.list = s.load.list ++ [slot])
    (scheduled : load.scheduled = s.load.scheduled) (state : load.state = .active) :
    State.Filed { s.modify slot (Record.loaded crc) with load := load } := by
  have wf := h.standing.canonical.1
  have own : State.record { s.modify slot (Record.loaded crc) with load := load } slot = (s.record slot).loaded crc :=
    State.record_modify_same s wf
  have other : ∀ n, n ≠ slot → State.record { s.modify slot (Record.loaded crc) with load := load } n = s.record n := fun n hn =>
    State.record_modify_ne s hn
  have claim := h.standing.claims slot
  have stays : s.Stays { s.modify slot (Record.loaded crc) with load := load } :=
    .trans (.modify (slot := slot) (f := Record.loaded crc) wf h.inUse) .of
  have mem : ∀ n, n ∈ load.list ↔ n ∈ s.load.list ∨ n = slot := fun n => by rw [list, List.mem_append, List.mem_singleton]
  refine (h.standing.of_stays stays ((State.Work.modifyOf (s := s) (slot := slot) (f := Record.loaded crc)).canonical h.standing.canonical)
    ⟨h.standing.lists.commitList, h.standing.lists.scheduled, ?_, ?_⟩ fun n => ?_).filed fun n => ?_
  · rw [show State.load _ = load from rfl, list]
    exact List.nodup_append.2 ⟨h.standing.lists.load, by simp, fun a ha b hb e => h.unlisted.1 (by simp at hb; exact hb ▸ e ▸ ha)⟩
  · rw [show State.load _ = load from rfl, scheduled]; exact h.standing.lists.loadScheduled
  · by_cases hn : n = slot
    · subst hn
      refine ⟨?_, fun p => ?_, fun p => ?_, ?_⟩
      · rw [own]; exact ⟨nofun, nofun⟩
      · rw [own]
        refine Iff.trans (by cases p <;> exact Iff.rfl) ((claim.listed p).trans ?_)
        rw [h.hold]
        exact ⟨fun e => absurd e.1.symm p.hold_ne_none, fun e => absurd e.1.symm p.hold_ne_load⟩
      · rw [own]
        refine Iff.trans (by cases p <;> exact Iff.rfl) ((claim.scheduled p).trans ?_)
        rw [h.hold]
        exact ⟨fun e => absurd e.1.symm p.hold_ne_none, fun e => absurd e.1.symm p.hold_ne_load⟩
      · rw [own]; nofun
    · exact (h.standing.claims n).congr (other n hn) (fun p => by cases p <;> exact Iff.rfl) fun p => by cases p <;> exact Iff.rfl
  · by_cases hn : n = slot
    · subst hn
      refine ⟨?_, ?_, fun _ => (mem n).2 (.inr rfl), fun _ => .inl ⟨state, by rw [own]; rfl⟩⟩
      · rw [own]; exact ⟨fun _ => rfl, fun _ => (mem n).2 (.inr rfl)⟩
      · rw [own, show State.load _ = load from rfl, scheduled]
        exact ⟨fun e => absurd e h.unlisted.2, fun e => nomatch e.2⟩
    · exact (h.loads n hn).congr (other n hn) ((mem n).trans (or_iff_left hn)) (by rw [show State.load _ = load from rfl, scheduled])
        (state.trans h.active.symm)

theorem Bl.completing_eq (s : State) : Bl.completing s = { s.modifyAll Record.scheduled s.load.list with
    load := { s.load with state := .committing, scheduled := insertAll s.load.list s.load.scheduled } } := by
  show { s.modifyAll Record.scheduled s.load.list with load := { (s.modifyAll Record.scheduled s.load.list).load with
    state := .committing, scheduled := insertAll s.load.list (s.modifyAll Record.scheduled s.load.list).load.scheduled } } = _
  rw [State.modifyAll_load]

/-- Every record of an ACTIVE load made SCHEDULED (R164). -/
theorem Bl.completing_filed (f : s.Filed) : (Bl.completing s).Filed := by
  have wf := f.canonical.1
  have nodup := f.lists.load
  have listed := fun n => (f.loads n).listed
  have hu : ∀ n ∈ s.load.list, (s.record n).inUse = true := fun n hn => f.inUse_of_hold (by rw [(listed n).1 hn]; nofun)
  have canonical := Bl.completing_work.canonical f.canonical
  rw [Bl.completing_eq] at canonical ⊢
  have record : ∀ n, State.record { s.modifyAll Record.scheduled s.load.list with
      load := { s.load with state := .committing, scheduled := insertAll s.load.list s.load.scheduled } } n =
      if n ∈ s.load.list then (s.record n).scheduled else s.record n := (State.modifyAll_records wf nodup).2
  refine (f.standing.of_stays (.trans (State.modifyAll_stays (f := Record.scheduled) wf nodup hu) .of) canonical
    ⟨fun p => ?_, fun p => ?_, nodup, insertAll_ascending f.lists.loadScheduled⟩ fun n => ?_).filed fun n => ?_
  · have := f.lists.commitList p
    rw [← State.modifyAll_port (f := Record.scheduled) (slots := s.load.list)] at this
    cases p <;> exact this
  · have := f.lists.scheduled p
    rw [← State.modifyAll_port (f := Record.scheduled) (slots := s.load.list)] at this
    cases p <;> exact this
  · have claim := f.claims n
    have ports : ∀ p, State.port { s.modifyAll Record.scheduled s.load.list with
        load := { s.load with state := .committing, scheduled := insertAll s.load.list s.load.scheduled } } p = s.port p := fun p =>
      Eq.trans (by cases p <;> rfl) (State.modifyAll_port (f := Record.scheduled) (slots := s.load.list))
    by_cases hn : n ∈ s.load.list
    · have own := record n
      rw [if_pos hn] at own
      have hold := (listed n).1 hn
      refine ⟨?_, fun p => ?_, fun p => ?_, ?_⟩
      · rw [own, show (s.record n).scheduled.hold = _ from hold]; exact ⟨nofun, nofun⟩
      · rw [own, ports, claim.listed p, show (s.record n).scheduled.hold = _ from hold, hold]
        exact ⟨fun e => absurd e.1.symm p.hold_ne_load, fun e => absurd e.1.symm p.hold_ne_load⟩
      · rw [own, ports, claim.scheduled p, show (s.record n).scheduled.hold = _ from hold, hold]
        exact ⟨fun e => absurd e.1.symm p.hold_ne_load, fun e => absurd e.1.symm p.hold_ne_load⟩
      · rw [own, show (s.record n).scheduled.hold = _ from hold]; nofun
    · exact claim.congr (by rw [record, if_neg hn]) (fun p => by rw [ports]) fun p => by rw [ports]
  · by_cases hn : n ∈ s.load.list
    · have own := record n
      rw [if_pos hn] at own
      have hold := (listed n).1 hn
      refine ⟨?_, ?_, fun _ => hn, fun _ => .inr ⟨rfl, by rw [own]; rfl⟩⟩
      · rw [own]; exact listed n
      · rw [own]; exact ⟨fun _ => ⟨hold, rfl⟩, fun _ => mem_insertAll.2 (.inl hn)⟩
    · have own := record n
      rw [if_neg hn] at own
      have hold : (s.record n).hold ≠ .load := fun h => hn ((listed n).2 h)
      refine ⟨?_, ?_, ?_, fun h => ?_⟩
      · rw [own]; exact listed n
      · rw [own]
        refine mem_insertAll.trans ((or_iff_right hn).trans ?_)
        exact (f.loads n).scheduled
      · rw [own]; exact (f.loads n).created
      · rw [own] at h; exact absurd h hold

theorem Bl.Ready.touches {t : State} (h : Bl.Ready s slot) (k : s.Touches slot t) : Bl.Ready t slot :=
  ⟨k.standing h.standing, fun n hn => k.same.loadAt (h.loads n hn), by rw [k.same.loadList, k.same.loadScheduled]; exact h.unlisted,
    (k.same.inUse slot).trans h.inUse, (k.same.records slot).hold.trans h.hold, k.same.loadState.trans h.active⟩

theorem Bl.accept_filed {payload : List Byte} (h : Bl.Ready s slot) (created : Bool) (retired : Nat) : (Bl.accept slot created retired payload s).2.Filed := by
  have filled := h.touches (State.fillPending_touches h.standing.toBased h.inUse (bankOf (imageBank payload)))
  simp only [Bl.accept]
  generalize s.fillPending slot (bankOf (imageBank payload)) = a at filled
  have taken := Bl.take_filed filled (crc16 (imageBank payload)) (load := { a.load with
    list := a.load.list ++ [slot], lastSlot := some slot, remaining := a.load.remaining - 1, timer := a.params.holdTimeout }) rfl rfl filled.active
  split
  · exact Bl.completing_filed taken
  · exact taken

theorem Bl.recordBody_filed {p : Port} {payload : List Byte} (f : s.Filed) : (Bl.recordBody p payload s).2.Filed := by
  simp only [Bl.recordBody]
  split
  · exact f
  · rename_i active
    have active := Decidable.not_not.1 active
    split
    · exact f
    · split
      · exact Bl.abort_filed f _
      · split
        · exact Bl.abort_filed f _
        · split
          · rename_i e he
            split
            · exact Bl.abort_filed f _
            · have read := State.read_touches (slot := e.slot) f.toBased .bl isStateWord
              have f1 := read.filed f
              have hu : (s.record e.slot).inUse = true := (f.indexed.1 _ e he).1
              split
              · exact Bl.abort_filed f1 _
              · rename_i hold
                split
                · exact Bl.abort_filed f1 _
                · exact Bl.accept_filed (f1.ready ((read.same.inUse _).trans hu) (Decidable.not_not.1 hold) active) _ _
          · rename_i hx
            split
            · exact Bl.abort_filed f _
            · rename_i halloc
              exact Bl.accept_filed ((Rt.allocateCreate_entered f hx halloc).ready active) _ _

/-! ### The boundary -/

theorem Cd.readRecord_filed (f : s.Filed) : (Cd.readRecord slot s).Filed := by
  have read : ∀ {a : State} (sel : ArrayWord → Bool), a.Filed → (a.read .cd slot sel).Filed := fun sel h =>
    (State.read_touches h.toBased _ _).filed h
  exact read _ (.ite (fun _ => read _ (read _ f)) fun _ => read _ f)

theorem Cd.latchSeats_filed (f : s.Filed) (seats : Table Seat) (acc : Table SnapEntry) : (Cd.latchSeats seats acc s).2.Filed := by
  induction seats generalizing acc s with
  | nil => exact f
  | cons e seats ih =>
    obtain ⟨n, e⟩ := e
    refine ih (s := (Cd.latchSeat e s).2) ?_ _
    simp only [Cd.latchSeat]
    split
    · exact Cd.readRecord_filed f
    · exact f

theorem Cd.latch_filed (f : s.Filed) : (Cd.latch s).Filed :=
  (Cd.latchSeats_filed f s.seats []).of fun _ => Cd.latch_work.canonical f.canonical

theorem Sc.scrub_filed (f : s.Filed) : (Sc.scrub s).Filed := by
  have one : ∀ {a : State}, a.Filed → (Sc.scrubOne a).Filed := fun {a} h =>
    State.Filed.of ((State.read_touches (slot := a.cursor) h.toBased .sc fun _ => true).filed h) id
  rw [Sc.scrub]
  induction s.params.scrubRate with
  | zero => exact f
  | succ n ih => rw [Function.iterate_succ_apply']; exact one ih

theorem Dt.slew_filed (f : s.Filed) : (Dt.slew s).Filed := f.eachInUse fun _ _ hu _ => .slewRecord _ hu

theorem Dt.recomputeWhere_filed (f : s.Filed) (test : Record → Bool) : (Dt.recomputeWhere test s).Filed :=
  f.eachInUse fun _ _ hu _ => by
    split
    · exact .recompute _ hu
    · exact .refl

theorem Dt.strike_filed (f : s.Filed) : (Dt.strike s).Filed :=
  f.eachInUse fun _ _ hu w => (Store.Touches.invalidate w hu).trans (.recompute _ ((Store.Touches.invalidate w hu).inUse w hu))

theorem Stage.run_filed (f : s.Filed) (stage : Stage) : (stage.run s).Filed := by
  cases stage
  · have applied : (Bl.complete (Cu.applyPort .b (Cu.applyPort .a s))).Filed := Bl.complete_filed (Cu.applyPort_filed (Cu.applyPort_filed f))
    have expired : (Cu.expire (Cu.ageHolds (Bl.complete (Cu.applyPort .b (Cu.applyPort .a s))))).Filed := Cu.expire_filed (Cu.ageHolds_filed applied)
    simp only [Stage.run, Stage.commitWork]
    exact Bl.timeout_filed (Bl.age_filed expired)
  · exact Dt.slew_filed f
  · exact Sc.scrub_filed f
  · exact Cd.latch_filed f

theorem boundaryWork_filed (f : s.Filed) : (boundaryWork s).Filed := by
  have drawn : State.Filed { s with draws := s.draws + 1 } := f.of id
  have aged := Pu.staleCheck_filed (Pu.age_filed drawn)
  simp only [boundaryWork]
  exact foldl_keep (P := State.Filed) _ (fun _ stage _ h => Stage.run_filed h stage) aged

theorem boundary_filed (f : s.Filed) : (boundary s).Filed := by
  have announced : State.Filed { s with ftu := { s.ftu with
    lastBoundary := s.ftu.now, nextExpiry := s.ftu.now + s.params.nominalPeriod, frameCount := s.ftu.frameCount + 1 } } := f.of id
  exact boundaryWork_filed announced

end Sys2Proof.Machine
end

section
/-! PROOF. Timing, parameters, ports and the link leave the directory in agreement, and so does every step (R10, R12, R27, R104). -/
namespace Sys2Proof.Machine

-- One declaration after another: as one text the file has more of them than it may have threads.
set_option Elab.async false

variable {s : State} {p : Port} {payload : List Byte}

/-! ### The Frame Timing Unit -/

theorem State.Filed.onFtu (f : s.Filed) (g : Ftu → Ftu) : (s.onFtu g).Filed := f.of id

theorem Ftu.boundaryIfPassed_filed (f : s.Filed) : (Ftu.boundaryIfPassed s).Filed := .ite (fun _ => boundary_filed f) fun _ => f

theorem Ftu.unlocked_filed (f : s.Filed) : (Ftu.unlocked s).Filed :=
  .ite (fun _ => Ftu.boundaryIfPassed_filed ((f.onFtu _).onNu _)) fun _ =>
    .ite (fun _ => Ftu.boundaryIfPassed_filed (f.onFtu _)) fun _ => f

theorem Ftu.lockedPulse_filed (f : s.Filed) : (Ftu.lockedPulse s).Filed := by
  simp only [Ftu.lockedPulse]
  split
  · exact boundary_filed f
  · exact f
  · exact .ite (fun _ => boundary_filed (f.onFtu _)) fun _ => f.onFtu _
  · exact f

theorem Ftu.pulse_filed (f : s.Filed) : (Ftu.pulse s).Filed := by
  simp only [Ftu.pulse]
  exact .ite (fun _ => Ftu.unlocked_filed (f.onFtu _)) fun _ => .ite (fun _ => Ftu.lockedPulse_filed (f.onFtu _)) fun _ => f.onFtu _

theorem Ftu.lose_filed (f : s.Filed) : (Ftu.lose s).Filed := Ftu.unlocked_filed (f.onFtu _)

theorem Ftu.expire_filed (f : s.Filed) : (Ftu.expire s).Filed := by
  simp only [Ftu.expire]
  split
  · exact .ite (fun _ => f) fun _ => boundary_filed f
  · exact boundary_filed (f.onFtu _)
  · exact f

theorem Ftu.nextEvent_filed {t : State} {m : Nat} (f : s.Filed) (h : Ftu.nextEvent m s = some t) : t.Filed := by
  have expiry : ∀ e, (Ftu.expire (s.moveTo e)).Filed := fun e => Ftu.expire_filed (f.onFtu _)
  have loss : ∀ l, (Ftu.lose (s.moveTo l)).Filed := fun l => Ftu.lose_filed (f.onFtu _)
  simp only [Ftu.nextEvent] at h
  split at h
  · split at h
    · cases h; exact expiry _
    · split at h
      · cases h; exact loss _
      · cases h
  · split at h
    · cases h; exact expiry _
    · cases h
  · split at h
    · cases h; exact loss _
    · cases h
  · cases h

theorem Ftu.runEvents_filed (fuel m : Nat) (f : s.Filed) : (Ftu.runEvents fuel m s).Filed := by
  induction fuel generalizing s with
  | zero => exact f
  | succ fuel ih =>
    simp only [Ftu.runEvents]
    split
    · exact f
    · rename_i h
      exact ih (Ftu.nextEvent_filed f h)

theorem State.advance_filed (m : Nat) (f : s.Filed) : (s.advance m).Filed :=
  (Ftu.runEvents_filed ((m - s.ftu.now) / 4000 + 3) m f).onFtu fun f => { f with now := max f.now m }

theorem Ftu.reachExpiry_filed (f : s.Filed) : (Ftu.reachExpiry s).Filed := by
  simp only [Ftu.reachExpiry]
  exact .ite (fun _ => Ftu.expire_filed (State.advance_filed _ f)) fun _ => State.advance_filed _ f

theorem Ftu.reachLoss_filed (f : s.Filed) : (Ftu.reachLoss s).Filed := by
  simp only [Ftu.reachLoss]
  split
  · exact f
  · exact .ite (fun _ => Ftu.lose_filed (State.advance_filed _ f)) fun _ => State.advance_filed _ f

theorem Store.flip_records (u : Upset) (st : Store) : (st.flip u).records = st.records := by
  simp only [Store.flip]
  split <;> rfl

theorem State.idle_filed (f : s.Filed) : s.idle.Filed := by
  simp only [State.idle]
  split
  · exact State.advance_filed _ f
  · rename_i u rest _
    have flipped : State.Filed { s with store := s.store.flip u, upsets := rest } :=
      f.of (fun ⟨c, d⟩ => ⟨(Store.flip_records u s.store).symm ▸ c, d⟩) (records := Store.flip_records u s.store)
    exact State.advance_filed _ flipped

theorem Ftu.select_filed (source : Source) (f : s.Filed) : (Ftu.select source s).Filed := by
  simp only [Ftu.select]
  split
  · exact f.onFtu _
  · exact (f.onFtu _).onNu _
  · exact .ite (fun _ => boundary_filed (f.onFtu _)) fun _ => f.onFtu _
  · exact .ite (fun _ => Ftu.boundaryIfPassed_filed ((f.onFtu _).onFtu _)) fun _ => f.onFtu _

theorem Ftu.selectBody_filed (f : s.Filed) : (Ftu.selectBody p payload s).2.Filed := by
  simp only [Ftu.selectBody]
  split
  · exact f
  · exact Ftu.select_filed _ f

/-! ### Parameters, batch defaults and the wall -/

theorem Rt.setBatchBody_filed (f : s.Filed) : (Rt.setBatchBody p payload s).2.Filed := by
  simp only [Rt.setBatchBody]
  split
  · exact f
  · split
    · exact f
    · rename_i n _
      have stored : State.Filed { s with batches := Table.set none n (some ⟨natAt payload 0 2, bankOf (payload.drop 2)⟩) s.batches } :=
        f.of fun ⟨c1, c2, c3, c⟩ => ⟨c1, c2, Table.wf_set c3, c⟩
      exact Dt.recomputeWhere_filed stored _

theorem Rt.clearBatchBody_filed (f : s.Filed) : (Rt.clearBatchBody p payload s).2.Filed := by
  simp only [Rt.clearBatchBody]
  split
  · exact f
  · rename_i n _ _
    have stored : State.Filed { s with batches := Table.set none n none s.batches } :=
      f.of fun ⟨c1, c2, c3, c⟩ => ⟨c1, c2, Table.wf_set c3, c⟩
    exact Dt.recomputeWhere_filed stored _

theorem Ftu.writePeriod_filed (v : Nat) (f : s.Filed) : (Ftu.writePeriod v s).Filed := by
  have stored : (s.repaced v).Filed := f.of id
  have due : (Ftu.boundaryIfDue (s.repaced v)).Filed := .ite (fun _ => boundary_filed stored) fun _ => stored
  rw [Ftu.writePeriod_eq, Ftu.loseIfPassed]
  split
  · exact .ite (fun _ => Ftu.lose_filed due) fun _ => due
  · exact due

theorem Dt.writeLimit_filed (v : Nat) (f : s.Filed) : (Dt.writeLimit v s).Filed := by
  have stored : (s.limited v).Filed := f.of id
  rw [Dt.writeLimit_eq]
  exact Dt.recomputeWhere_filed (.ite (fun _ => stored.eachInUse fun _ _ hu _ => .clampApplied hu) fun _ => stored) _

theorem Cx.writeParam_filed (q : Param) (v : Nat) (f : s.Filed) : (Cx.writeParam q v s).Filed := by
  have stored : ∀ ps : Params, State.Filed { s with params := ps } := fun ps => f.of id
  cases q
  case headroomLimit => exact Dt.writeLimit_filed v f
  case fallbackGain => exact Dt.recomputeWhere_filed (stored _) _
  case ditherSeed => exact f.of id
  case poolLowThreshold => exact (stored _).onNu _
  case nominalPeriod => exact Ftu.writePeriod_filed v f
  case driftGap => exact f.of id
  all_goals exact stored _

theorem Cx.setParameterBody_filed (f : s.Filed) : (Cx.setParameterBody p payload s).2.Filed := by
  simp only [Cx.setParameterBody]
  split
  · exact f
  · split
    · exact f
    · split
      · exact f
      · exact Cx.writeParam_filed _ _ f

theorem Cx.setZoneBody_filed (f : s.Filed) : (Cx.setZoneBody p payload s).2.Filed := by
  simp only [Cx.setZoneBody]
  split
  · exact f
  · split
    · exact f
    · dsimp only
      exact f.onPort

theorem Pu.strike_filed (f : s.Filed) : (Pu.strike s).Filed := foldl_keep (P := State.Filed) _ (fun _ _ _ => Pu.empty_filed) f

theorem Cx.wallResetBody_filed (f : s.Filed) : (Cx.wallResetBody p payload s).2.Filed := by
  have cleared : (Trl.clear (Pu.strike s)).Filed := (Pu.strike_filed f).of fun c => Trl.clear_work.canonical c
  have withdrawn : (Cd.withdraw (Trl.clear (Pu.strike s))).Filed := cleared.of id
  simp only [Cx.wallResetBody]
  exact Dt.strike_filed (Bl.strike_filed (Cu.cancelPort_filed (Cu.cancelPort_filed withdrawn)))

/-! ### The ports, the link and the datapath -/

theorem Port.transaction_filed (bytes : List Byte) (f : s.Filed) : (p.transaction bytes s).Filed := by
  have discard : (p.discard s).Filed := (f.onNu _).onNu _
  have receive : (p.receive bytes s).Filed := by
    simp only [Port.receive]
    split
    · exact discard
    · exact .ite (fun _ => f.onPort) fun _ => discard
  have readAnswer : ∀ n, (p.readAnswer n s).Filed := fun n => f.onPort (by split <;> rfl) (by split <;> rfl)
  simp only [Port.transaction]
  refine .ite (fun _ => f) fun _ => ?_
  split
  · exact f
  · exact .ite (fun _ => readAnswer _) fun _ => receive

theorem Port.detachB_filed (f : s.Filed) : (Port.detachB s).Filed := by
  have cancelled : (Cu.cancelPort .b s).Filed := Cu.cancelPort_filed f
  exact ((Bl.detached_filed cancelled).onPort (p := .b)).onNu _

theorem Trl.receive_filed (samples : List Bool) (f : s.Filed) : (Trl.receive samples s).Filed := by
  have moved : State.Filed { s with trl := { s.trl with line := (s.trl.line.run samples).2 } } := f.of id
  refine foldl_keep (P := State.Filed) _ (fun acc frame _ h => ?_) moved
  simp only [Trl.arrive]
  split
  · exact h.onNu _
  · split
    · rename_i r _ room
      have joined := (Trl.join_work r room).canonical
      simp only [Trl.join] at joined ⊢
      by_cases gap : (r.sequence != acc.trl.last r.distPort + 1) = true
      · rw [if_pos gap] at joined ⊢; exact State.Filed.of (s := acc) h joined
      · rw [if_neg gap] at joined ⊢; exact State.Filed.of (s := acc) h joined
    · exact (h.onNu _).onNu _

theorem Cd.pixelOf_filed (b : Burst) (start : Bool) (pix : Pixel) (f : s.Filed) : (Cd.pixelOf b start pix s).Filed := by
  have work := (Cd.pixelOf_work (s := s) b start pix).canonical
  simp only [Cd.pixelOf] at work ⊢
  by_cases beyond : ((!b.unseated) = true ∧ b.index = b.tilePixels)
  · rw [if_pos beyond] at work ⊢; exact f.of work
  · rw [if_neg beyond] at work ⊢; exact f.of work

theorem Cd.startBurst_filed (tag : BitVec 11) (pix : Pixel) (f : s.Filed) : (Cd.startBurst tag pix s).Filed := by
  have loaded : State.Filed { s with cd := { s.cd with dither := s.cd.seedLoad.elim s.cd.dither seedValue, seedLoad := none } } := f.of id
  exact Cd.pixelOf_filed _ _ _ (.ite (fun _ => loaded.onNu _) fun _ => loaded)

theorem Cd.laterPixel_filed (pix : Pixel) (f : s.Filed) : (Cd.laterPixel pix s).Filed := by
  simp only [Cd.laterPixel]
  split
  · exact Cd.pixelOf_filed _ _ _ f
  · exact f.of id

/-! ### Commands that read -/

theorem Rt.findBody_filed (f : s.Filed) : (Rt.findBody p payload s).2.Filed := by
  simp only [Rt.findBody]
  split
  · exact f
  · split
    · exact f
    · exact (State.read_touches f.toBased _ _).filed f

theorem Rt.readBody_filed (f : s.Filed) : (Rt.readBody p payload s).2.Filed :=
  withSlot_filed f fun _ _ => (State.read_touches f.toBased _ _).filed f

theorem Dt.readBody_filed (f : s.Filed) : (Dt.readBody p payload s).2.Filed :=
  withSlot_filed f fun _ _ => (State.read_touches f.toBased _ _).filed f

theorem Rt.scan_filed (filter left slot : Nat) (found : List Nat) (f : s.Filed) : (Rt.scan filter left slot found s).2.2.Filed := by
  induction left generalizing slot found s with
  | zero => exact f
  | succ left ih =>
    simp only [Rt.scan]
    split
    · exact f
    · exact ih _ _ ((State.read_touches f.toBased _ _).filed f)

theorem Rt.scanBody_filed (f : s.Filed) : (Rt.scanBody p payload s).2.Filed := by
  simp only [Rt.scanBody]
  split
  · exact f
  · split
    · exact f
    · exact Rt.scan_filed _ _ _ _ f

/-- A command that answers without a change of the state. -/
theorem State.Filed.of_eq {t : State} (f : s.Filed) (h : t = s) : t.Filed := h ▸ f

theorem Rt.readBatchBody_state : (Rt.readBatchBody p payload s).2 = s := by
  simp only [Rt.readBatchBody]
  split
  · rfl
  · split <;> rfl

theorem Pu.readBody_state : (Pu.readBody p payload s).2 = s := by
  simp only [Pu.readBody]
  split <;> rfl

theorem Cx.readZonesBody_state : (Cx.readZonesBody p payload s).2 = s := by
  simp only [Cx.readZonesBody]
  split <;> rfl

theorem Cx.readParameterBody_state : (Cx.readParameterBody p payload s).2 = s := by
  simp only [Cx.readParameterBody]
  split <;> rfl

/-! ### Every command and every step -/

/-- A command leaves the directory in agreement where its own part does (R177). -/
theorem Cx.run_filed {codes : Nat → Bool} {body : Body} (f : s.Filed) (h : ∀ p payload a, State.Filed a → (body p payload a).2.Filed) :
    (Cx.run codes body s).Filed := by
  simp only [Cx.run]
  split
  · exact f
  · rename_i p m s' htake
    obtain ⟨rest, rfl, _⟩ := Cx.take_some htake
    have taken : (s.taken p rest).Filed :=
      State.Filed.of (s := s.onPort p fun q => { q with messages := rest }) f.onPort id
    exact .ite (fun _ => (h _ _ _ taken).onPort) fun _ => f

theorem Cx.command_filed {code : Nat} {aOnly : Bool} {fits : Nat → Bool} {body : Body} (f : s.Filed)
    (h : ∀ p payload a, State.Filed a → (body p payload a).2.Filed) : (Cx.command code aOnly fits body s).Filed :=
  Cx.run_filed f fun p payload a fa => by
    simp only [Cx.checked]
    split
    · exact fa
    · split
      · exact fa
      · exact h p payload a fa

/-- The state after a release is filed: every slot is free and nothing is listed (R185). -/
theorem State.release_filed : s.release.Filed := by
  refine ⟨⟨State.release_canonical, ⟨?_, fun n => ?_, fun _ _ => rfl, fun _ _ => rfl⟩, ⟨nofun, nofun⟩,
    ⟨fun p => by cases p <;> exact .nil, fun p => by cases p <;> exact .nil, .nil, .nil⟩,
    fun n => ⟨⟨fun _ => rfl, fun _ => rfl⟩, fun p => ?_, fun p => ?_, fun _ => rfl⟩⟩, fun _ _ => ⟨nofun, nofun⟩,
    fun n => ⟨⟨nofun, nofun⟩, ⟨nofun, nofun⟩, nofun, nofun⟩⟩
  · rw [State.release_freeQueue]; exact List.nodup_range
  · rw [State.release_freeQueue, List.mem_range]; exact (and_iff_left rfl).symm
  · cases p <;> exact ⟨nofun, nofun⟩
  · cases p <;> exact ⟨nofun, nofun⟩

theorem State.Filed.of_next {t u : State} (h : (.next u : Host.Outcome State Fault Refusal) = .next t) (f : u.Filed) : t.Filed := by
  cases h
  exact f

theorem exec_filed {t : State} (f : s.Filed) {c : Instr} (h : exec c s = .next t) : t.Filed := by
  cases c
  case resetNRelease => exact .of_next h State.release_filed
  case portBAttach => exact .of_next h <| f.onNu _
  case portBDetach => exact .of_next h <| .ite (fun _ => Port.detachB_filed f) fun _ => f
  case messageWrite p bytes => exact .of_next h <| Port.transaction_filed _ f
  case answerRead p clocked => exact .of_next h <| .ite (fun _ => f.onPort (by split <;> rfl) (by split <;> rfl)) fun _ => f
  case unknownCommand => exact .of_next h <| Cx.run_filed f fun _ _ _ => id
  case identify => exact .of_next h <| Cx.command_filed f fun _ _ _ => id
  case setParameter => exact .of_next h <| Cx.command_filed f fun _ _ _ => Cx.setParameterBody_filed
  case readParameter => exact .of_next h <| Cx.command_filed f fun _ _ _ h => h.of_eq Cx.readParameterBody_state
  case setZone => exact .of_next h <| Cx.command_filed f fun _ _ _ => Cx.setZoneBody_filed
  case readZones => exact .of_next h <| Cx.command_filed f fun _ _ _ h => h.of_eq Cx.readZonesBody_state
  case wallReset => exact .of_next h <| Cx.command_filed f fun _ _ _ => Cx.wallResetBody_filed
  case createRecord => exact .of_next h <| Cx.command_filed f fun _ _ _ => Rt.createBody_filed
  case findRecord => exact .of_next h <| Cx.command_filed f fun _ _ _ => Rt.findBody_filed
  case readRecord => exact .of_next h <| Cx.command_filed f fun _ _ _ => Rt.readBody_filed
  case scanRecords => exact .of_next h <| Cx.command_filed f fun _ _ _ => Rt.scanBody_filed
  case retireRecord => exact .of_next h <| Cx.command_filed f fun _ _ _ => Rt.retireBody_filed
  case readDrift => exact .of_next h <| Cx.command_filed f fun _ _ _ => Dt.readBody_filed
  case setBatchDefault => exact .of_next h <| Cx.command_filed f fun _ _ _ => Rt.setBatchBody_filed
  case clearBatchDefault => exact .of_next h <| Cx.command_filed f fun _ _ _ => Rt.clearBatchBody_filed
  case readBatchDefault => exact .of_next h <| Cx.command_filed f fun _ _ _ h => h.of_eq Rt.readBatchBody_state
  case placeSeat => exact .of_next h <| Cx.command_filed f fun _ _ _ => Pu.placeBody_filed
  case vacateSeat => exact .of_next h <| Cx.command_filed f fun _ _ _ => Pu.vacateBody_filed
  case readSeat => exact .of_next h <| Cx.command_filed f fun _ _ _ h => h.of_eq Pu.readBody_state
  case openEdit => exact .of_next h <| Cx.command_filed f fun _ _ _ => Cu.openBody_filed
  case writeBank => exact .of_next h <| Cx.command_filed f fun _ _ _ => Cu.writeBody_filed
  case readPending => exact .of_next h <| Cx.command_filed f fun _ _ _ => Cu.readBody_filed
  case releaseEdit => exact .of_next h <| Cx.command_filed f fun _ _ _ => Cu.releaseBody_filed
  case commitRecord => exact .of_next h <| Cx.command_filed f fun _ _ _ => Cu.commitBody_filed
  case groupAdd => exact .of_next h <| Cx.command_filed f fun _ _ _ => Cu.groupAddBody_filed
  case groupRemove => exact .of_next h <| Cx.command_filed f fun _ _ _ => Cu.groupRemoveBody_filed
  case groupClear => exact .of_next h <| Cx.command_filed f fun _ _ _ => Cu.groupClearBody_filed
  case groupCommit => exact .of_next h <| Cx.command_filed f fun _ _ _ => Cu.groupCommitBody_filed
  case queryCommit => exact .of_next h <| Cx.command_filed f fun _ _ _ => id
  case selectSource => exact .of_next h <| Cx.command_filed f fun _ _ _ => Ftu.selectBody_filed
  case readTiming => exact .of_next h <| Cx.command_filed f fun _ _ _ => id
  case readIntegrity => exact .of_next h <| Cx.command_filed f fun _ _ _ => id
  case loadBegin => exact .of_next h <| Cx.command_filed f fun _ _ _ => Bl.beginBody_filed
  case loadRecord => exact .of_next h <| Cx.command_filed f fun _ _ _ => Bl.recordBody_filed
  case loadAbort => exact .of_next h <| Cx.command_filed f fun _ _ _ => Bl.abortBody_filed
  case loadStatus => exact .of_next h <| Cx.command_filed f fun _ _ _ => id
  case readEvents => exact .of_next h <| Cx.command_filed f fun _ _ _ => id
  case clearEvents => exact .of_next h <| Cx.command_filed f fun _ _ _ h => h.onNu _
  case setEventEnables => exact .of_next h <| Cx.command_filed f fun _ _ _ h => h.onNu _
  case readCounters => exact .of_next h <| Cx.command_filed f fun _ _ _ => id
  case clearCounters => exact .of_next h <| Cx.command_filed f fun _ _ _ h => h.of id
  case reportArrival samples => exact .of_next h <| Trl.receive_filed _ f
  case announce => exact .of_next h <| Pu.takeHead_filed f _
  case status => exact .of_next h <| Pu.takeHead_filed f _
  case lost => exact .of_next h <| Pu.takeHead_filed f _
  case frameRefPulse elapsed => exact .of_next h <| Ftu.pulse_filed (State.advance_filed _ f)
  case internalExpiry => exact .of_next h <| Ftu.reachExpiry_filed f
  case referenceLoss => exact .of_next h <| Ftu.reachLoss_filed f
  case holdExpired => exact .of_next h <| Cu.expire_filed f
  case loadTimeout => exact .of_next h <| Bl.timeout_filed f
  case seatStale => exact .of_next h <| Pu.staleCheck_filed f
  case pixelBurst tag pix => exact .of_next h <| Cd.startBurst_filed _ _ f
  case pixel pix => exact .of_next h <| Cd.laterPixel_filed _ f

theorem step_filed {t : State} (f : s.Filed) (h : step s = .next t) : t.Filed := by
  simp only [step] at h
  split at h
  · rename_i rest _
    have queued : State.Filed { s with pending := rest } := f.of id
    exact exec_filed queued h
  · cases h; exact State.idle_filed f

/-- Settles O57: each operation leaves the directory in agreement part by part (`State.Filed`). -/
theorem everyStepKeepsTheDirectory : Obligations.EveryStepKeepsTheDirectory := fun _ _ canonical directory h =>
  (State.filed_iff.1 (step_filed (State.filed_iff.2 ⟨canonical, directory⟩) h)).2

/-- Settles O3: the state after reset is the one a release leaves of it. -/
theorem resetStateMeetsEveryInvariant : Obligations.ResetStateMeetsEveryInvariant := by
  have release : State.reset.release = State.reset := by simp only [State.release, State.reset, Store.reset]
  have filed : State.reset.Filed := release ▸ State.release_filed
  exact ⟨(State.filed_iff.1 filed).1, (State.filed_iff.1 filed).2, fun _ => Record.within_blank _, release ▸ State.release_sound,
    release ▸ State.release_bounded, Counters.zero_le, Params.inRange_default, release ▸ State.release_ditherSound⟩

end Sys2Proof.Machine
end

section
/-! PROOF. The step and the passing of time, transactions, the executor's turns and shared checks, and the commands on identity, parameters and zones
(R173 to R181, R184, R186). -/
namespace Sys2Proof.Machine

-- One declaration after another: as one text the file has more of them than it may have threads.
set_option Elab.async false

/-! ### The step -/

/-- A tick before which nothing falls due moves the clock by 1 us, and nothing else. -/
theorem State.tick_quiet {s : State} (he : ∀ e, s.expiryDeadline = some e → s.ftu.now < e) (hl : ∀ l, s.lossDeadline = some l → s.ftu.now < l) :
    s.tick = { s with ftu := { s.ftu with now := s.ftu.now + 1 } } := by
  rw [State.tick, State.advance_quiet he hl, max_eq_right (Nat.le_succ _)]

/-- Settles O1: an empty queue ticks the clock, after a flip where one waits. -/
theorem stepRunsFrontCommandOrPassesTime : Obligations.StepRunsFrontCommandOrPassesTime := by
  refine ⟨fun c rest s hp => by simp only [step, hp], fun s hp hu he hl => ?_, fun s u more hp hu he hl => ?_⟩
  · simp only [step, hp, State.idle, hu, State.tick_quiet he hl]
  · dsimp only
    have stepped : step s = .next { s with
        upsets := more, store := s.store.flip u, ftu := { s.ftu with now := s.ftu.now + 1 } } := by
      have idle : s.idle = { s with store := s.store.flip u, upsets := more }.tick := by simp only [State.idle, hu]
      have ticked := State.tick_quiet (s := { s with store := s.store.flip u, upsets := more }) he hl
      have idles : step s = .next s.idle := by simp only [step, hp]
      exact idles.trans (congrArg Host.Outcome.next (idle.trans ticked))
    rw [stepped]
    refine ⟨fun hf => ?_, fun d hf hb => ?_, fun d hf hb => ⟨fun hleft => ?_, fun hleft => ?_⟩⟩
    · simp only [Store.flip, hf]
    · simp only [Store.flip, hf, if_neg hb]
      simp
    · simp only [Store.flip, hf, if_pos hb, hleft]
      simp
    · simp only [Store.flip, hf, if_pos hb, if_neg hleft]

/-! ### Messages (R174, R188) -/

/-- Two bytes are the image of the word they carry. -/
theorem halfBytes_ofNat_beNat (x y : Byte) : halfBytes (BitVec.ofNat 16 (beNat [x, y])) = [x, y] := by
  have hx := x.isLt
  have hy := y.isLt
  have hv : beNat [x, y] = x.toNat * 256 + y.toNat := by simp [beNat]
  simp only [halfBytes, beBytes, hv, BitVec.toNat_ofNat, List.cons.injEq, and_true]
  constructor <;> apply BitVec.eq_of_toNat_eq <;> simp only [BitVec.toNat_ofNat] <;> omega

theorem ofNat_beNat_halfBytes (v : Half) : BitVec.ofNat 16 (beNat (halfBytes v)) = v := by
  rw [halfBytes, beNat_beBytes_of_lt v.isLt]; simp

/-- The framing checks, for a message whose length field fits (R174). -/
theorem messageOf_framed {type len code tag x y : Byte} {payload : List Byte} (h : payload.length = len.toNat) :
    messageOf (type :: len :: code :: tag :: (payload ++ [x, y])) =
      if type = 0x01 ∧ len.toNat ≤ 250 ∧ crc16 (len :: code :: tag :: payload) = BitVec.ofNat 16 (beNat [x, y])
      then some ⟨code, tag, payload⟩ else none := by
  have hlen : (type :: len :: code :: tag :: (payload ++ [x, y])).length = 6 + len.toNat := by simp [h]; omega
  have hcrc : ((type :: len :: code :: tag :: (payload ++ [x, y])).drop 1).take (3 + len.toNat) = len :: code :: tag :: payload := by
    rw [Nat.add_comm]; simp [← h]
  have hcheck : natAt (type :: len :: code :: tag :: (payload ++ [x, y])) (4 + len.toNat) 2 = beNat [x, y] := by
    rw [Nat.add_comm]; simp [natAt, field, ← h]
  have htake : (payload ++ [x, y]).take len.toNat = payload := by simp [← h]
  simp only [messageOf, hlen, hcrc, hcheck, htake, true_and]

/-- A message's bytes, split at its framing (R188). -/
theorem Message.bytes_eq (m : Message) : ∃ x y : Byte, halfBytes (crc16 (BitVec.ofNat 8 m.payload.length :: m.code :: m.tag :: m.payload)) = [x, y] ∧
    m.bytes = 0x01 :: BitVec.ofNat 8 m.payload.length :: m.code :: m.tag :: (m.payload ++ [x, y]) :=
  ⟨_, _, rfl, by simp [Message.bytes, byteOf, halfBytes, beBytes]⟩

/-- A message is read back from its bytes (R174, R188). -/
theorem messageOf_bytes {m : Message} (h : m.payload.length ≤ 250) : messageOf m.bytes = some m := by
  obtain ⟨x, y, check, bytes⟩ := m.bytes_eq
  have hlen : (BitVec.ofNat 8 m.payload.length).toNat = m.payload.length := by rw [BitVec.toNat_ofNat]; omega
  rw [bytes, messageOf_framed hlen.symm, if_pos]
  rw [hlen, ← check, ofNat_beNat_halfBytes]
  exact ⟨rfl, h, rfl⟩

/-- Bytes that pass the framing checks are the bytes of the message they carry (R174). -/
theorem bytes_of_messageOf {bytes : List Byte} {m : Message} (h : messageOf bytes = some m) : m.payload.length ≤ 250 ∧ bytes = m.bytes := by
  simp only [messageOf] at h
  split at h
  · rename_i type len code tag rest
    split at h
    · rename_i checks
      obtain ⟨rfl, hle, hlength, hcrc⟩ := checks
      have hrest : rest.length = len.toNat + 2 := by simp at hlength; omega
      obtain ⟨payload, x, y, hp, rfl⟩ : ∃ (payload : List Byte) (x y : Byte), payload.length = len.toNat ∧ rest = payload ++ [x, y] := by
        have hdrop : (rest.drop len.toNat).length = 2 := by simp [hrest]
        match hd : rest.drop len.toNat, hdrop with
        | [x, y], _ => exact ⟨rest.take len.toNat, x, y, by simp [hrest], by rw [← hd, List.take_append_drop]⟩
      have framed := messageOf_framed (type := 0x01) (code := code) (tag := tag) (x := x) (y := y) hp
      rw [messageOf, if_pos ⟨rfl, hle, hlength, hcrc⟩, h] at framed
      split at framed
      · rename_i checks
        cases framed
        refine ⟨by simpa [hp] using hle, ?_⟩
        obtain ⟨x', y', check, bytes⟩ := (Message.mk code tag payload).bytes_eq
        have hl : BitVec.ofNat 8 payload.length = len := by rw [hp]; exact BitVec.eq_of_toNat_eq (by simp)
        rw [bytes, hl]
        simp only [hl, checks.2.2, halfBytes_ofNat_beNat, List.cons.injEq, and_true] at check
        rw [check.1, check.2]
      · cases framed
    · cases h
  · cases h

/-- A transaction of an attached port that is no answer read arrives as a message (R173). -/
theorem exec_messageWrite {s : State} {p : Port} {first : Byte} {more : List Byte} (attached : s.store.nu.attached p = true) (h : first ≠ 0x02) :
    exec (.messageWrite p (first :: more)) s = .next (p.receive (first :: more) s) := by
  show Host.Outcome.next (p.transaction (first :: more) s) = _
  simp only [Port.transaction, attached, Bool.not_true, Bool.false_eq_true, if_false, if_neg h]

/-- Settles O4: framed bytes are those of their message, and so any other bytes carry none. -/
theorem messagesJoinOrAreDiscarded : Obligations.MessagesJoinOrAreDiscarded := by
  refine ⟨fun s p m attached room length => ?_, fun s p first rest attached hf fault => ?_⟩
  · obtain ⟨x, y, _, bytes⟩ := m.bytes_eq
    have framed := messageOf_bytes length
    rw [bytes] at framed ⊢
    rw [exec_messageWrite attached (by decide), Port.receive, framed]
    simp only [room, if_true]
  · have discarded : p.receive (first :: rest) s = p.discard s := by
      simp only [Port.receive]
      split
      · rfl
      · rename_i m hm
        obtain ⟨length, bytes⟩ := bytes_of_messageOf hm
        rcases fault with unframed | full
        · exact absurd bytes (unframed m length)
        · rw [if_neg (by omega)]
    rw [exec_messageWrite attached hf, discarded]
    cases p <;> rfl

/-! ### Answers (R175) -/

theorem Answer.bytes_length (a : Answer) : a.bytes.length = 5 + a.payload.length := by
  simp [Answer.bytes]; omega

theorem returned_length (n : Nat) (bytes : List Byte) : (returned n bytes).length = n := by
  simp [returned]; omega

/-- What an answer read returns is the beginning of the bytes followed by FFh (R175). -/
theorem returned_prefix (n : Nat) (bytes : List Byte) : returned n bytes <+: bytes ++ List.replicate n 0xFF#8 := by
  refine (List.take_prefix n _).trans ((List.prefix_append_right_inj bytes).2 ⟨List.replicate (min n bytes.length) 0xFF#8, ?_⟩)
  rw [List.replicate_append_replicate]
  congr 1
  omega

/-- Settles O5: the two cases of the answer queue. -/
theorem answerReadReturnsTheHeadAnswer : Obligations.AnswerReadReturnsTheHeadAnswer := by
  intro s p n attached
  have read : exec (.answerRead p n) s = .next (p.readAnswer n s) := congrArg Host.Outcome.next (if_pos attached)
  refine ⟨_, read, ?_⟩
  cases h : (s.port p).answers with
  | nil =>
    have port : (p.readAnswer n s).port p = { s.port p with miso := returned n Answer.emptyMarker.bytes } := by
      simp only [Port.readAnswer, State.port_onPort, h]
    rw [port]
    refine ⟨returned_length _ _, ?_, h, returned_prefix _ _⟩
    cases p <;> simp_all [Port.readAnswer, State.onPort, State.port]
  | cons a more =>
    have port : (p.readAnswer n s).port p = { s.port p with
        miso := returned n a.bytes, answers := if a.bytes.length ≤ n then more else a :: more } := by
      simp only [Port.readAnswer, State.port_onPort, h]
    rw [port]
    refine ⟨returned_length _ _, ?_, returned_prefix _ _, by rw [Answer.bytes_length]⟩
    cases p <;> simp_all [Port.readAnswer, State.onPort, State.port]

/-- Settles O6. -/
theorem portBTakesTransactionsOnlyWhileAttached : Obligations.PortBTakesTransactionsOnlyWhileAttached := by
  refine ⟨fun _ => rfl, fun s bytes n detached => ?_, fun s p => ?_⟩
  · have unattached : s.store.nu.attached .b = false := detached
    refine ⟨congrArg Host.Outcome.next ?_, congrArg Host.Outcome.next ?_⟩
    · simp only [Port.transaction, unattached, Bool.not_false, if_true]
    · rw [if_neg (by simp [unattached])]
  · refine congrArg Host.Outcome.next ?_
    simp only [Port.transaction, ite_self]

/-! ### The executor (R177, R179) -/

/-- Settles O8. -/
theorem executorTakesTurnsAndRefusesUnknownCodes : Obligations.ExecutorTakesTurnsAndRefusesUnknownCodes := by
  refine ⟨fun s p code tag payload rest hc unknown h => congrArg Host.Outcome.next ?_, fun s p eligible turn => ?_⟩
  · rw [Cx.run_of_takes h (by simp [Nat.mod_eq_of_lt hc, unknown])]
    exact Cx.answer_taken
  · simp only [State.eligible, Bool.and_eq_true, decide_eq_true_eq] at eligible
    obtain ⟨⟨attached, nonempty⟩, room⟩ := eligible
    cases hm : (s.port p).messages with
    | nil => simp [hm] at nonempty
    | cons m rest =>
      have code : m = ⟨BitVec.ofNat 8 m.code.toNat, m.tag, m.payload⟩ := by simp
      have takes : s.takes p m.code.toNat m.tag m.payload rest := ⟨by rw [hm, ← code], attached, room, turn⟩
      refine ⟨m, rest, rfl, ?_⟩
      rw [Cx.take_of_takes takes, ← code]
      rfl

/-- Each command whose payload has one length checks its code and that length, and whether Port B may send it (R177, R179). -/
theorem exec_of_payloadLengths : ∀ x ∈ payloadLengths, x.2.1 < 256 ∧ ∃ aOnly body,
    (∀ s, exec x.1 s = .next (Cx.command x.2.1 aOnly (· == x.2.2) body s)) ∧ (aOnly = true → (x.1, x.2.1) ∈ portAOnly) := by
  unfold payloadLengths
  repeat' refine List.forall_mem_cons.2 ⟨⟨by decide, _, _, fun _ => rfl, by simp [portAOnly]⟩, ?_⟩
  exact List.forall_mem_nil _

/-- Each command that Port A alone may send checks so (R179). -/
theorem exec_of_portAOnly : ∀ x ∈ portAOnly, x.2 < 256 ∧ ∃ fits body, ∀ s, exec x.1 s = .next (Cx.command x.2 true fits body s) := by
  unfold portAOnly
  repeat' refine List.forall_mem_cons.2 ⟨⟨by decide, _, _, fun _ => rfl⟩, ?_⟩
  exact List.forall_mem_nil _

/-- Settles O9. -/
theorem sharedChecksRefuseBeforeAnyEffect : Obligations.SharedChecksRefuseBeforeAnyEffect := by
  refine ⟨fun s tag payload rest c code hmem h => ?_, fun s p tag payload rest c code n hmem hn hport h => ?_,
    fun s p tag payload rest c code least hmem hn hport h => ?_⟩
  · obtain ⟨hc, fits, body, run⟩ := exec_of_portAOnly _ hmem
    rw [run, Cx.command_notPermitted h hc]
  · obtain ⟨hc, aOnly, body, run, aOnlyListed⟩ := exec_of_payloadLengths _ hmem
    rw [run, Cx.command_badLength h hc (fun ha => ?_) (by simpa using hn)]
    cases p
    · rfl
    · exact absurd (aOnlyListed ha) (hport rfl)
  · simp only [List.mem_cons, Prod.mk.injEq, List.not_mem_nil, or_false] at hmem
    rcases hmem with ⟨rfl, rfl, rfl⟩ | ⟨rfl, rfl, rfl⟩ | ⟨rfl, rfl, rfl⟩
    · refine congrArg Host.Outcome.next (Cx.command_badLength h (by decide) (fun _ => ?_) (by simpa using hn))
      cases p
      · rfl
      · exact absurd (by simp [portAOnly]) (hport rfl)
    · exact congrArg Host.Outcome.next (Cx.command_badLength h (by decide) nofun (by simpa using hn))
    · exact congrArg Host.Outcome.next (Cx.command_badLength h (by decide) nofun (by simpa using hn))

end Sys2Proof.Machine
end

section
/-! PROOF. The commands that read identity, parameters, zones, timing, integrity, seats, the load and the pending bank, and those that set a
zone and begin a load (R48, R112, R126, R147, R159, R161, R170, R180, R181, R184, R186). -/
namespace Sys2Proof.Machine

-- One declaration after another: as one text the file has more of them than it may have threads.
set_option Elab.async false

variable {s : State} {p : Port} {tag : Byte} {rest : List Message} {n : Nat}

/-! ### A command whose own part leaves a state -/

section
variable {code : Nat} {payload : List Byte} {aOnly : Bool} {fits : Nat → Bool} {body : Body} {r : Reply}

/-- A command that passes the shared checks leaves its answer in the state that its own part leaves. -/
theorem Cx.command_leaves {t : State} (h : s.takes p code tag payload rest) (hc : code < 256) (ha : aOnly = true → p = .a)
    (hf : fits payload.length = true) (hb : body p payload (s.taken p rest) = (r, t.taken p rest)) :
    Cx.command code aOnly fits body s = t.answered p rest tag r.code r.payload := by
  rw [Cx.command_of_takes h hc ha hf, hb]
  exact Cx.answer_taken

end

/-! ### Identity and parameters -/

/-- No parameter has number 0 or one above 10h (R182). -/
theorem paramOf_eq_none (h : n = 0 ∨ 0x10 < n) : paramOf n = none := by
  unfold paramOf
  split <;> first | rfl | omega

/-- Settles O10. -/
theorem identityAndParametersAreRead : Obligations.IdentityAndParametersAreRead := by
  refine ⟨fun s p tag rest h => ?identify, fun s p tag rest number q hn hq h => ?value, fun s p tag rest number hn out h => ?unlisted⟩
  case identify =>
    refine ⟨0x41 + Config.siliconRevision.val, by omega, by omega, ?_⟩
    exact congrArg Host.Outcome.next (Cx.command_reads h (by decide) nofun rfl rfl)
  case value =>
    refine congrArg Host.Outcome.next (Cx.command_reads h (by decide) nofun rfl ?_)
    simp only [Cx.readParameterBody, natAt_byteOf_alone hn, hq, State.taken_params]
  case unlisted =>
    refine congrArg Host.Outcome.next (Cx.command_leaves (r := .badField 0) h (by decide) nofun rfl ?_)
    simp only [Cx.readParameterBody, natAt_byteOf_alone hn, paramOf_eq_none out]

/-! ### Zones -/

theorem portOf_code {q : Port} : portOf q.code = some q := by cases q <;> rfl

theorem portOf_eq_none (h : 1 < n) : portOf n = none := by
  unfold portOf
  split <;> first | rfl | omega

theorem portOf_of_le (h : n ≤ 1) : ∃ q, portOf n = some q := by
  interval_cases n <;> exact ⟨_, rfl⟩

theorem Port.code_lt (q : Port) : q.code < 256 := by cases q <;> decide

/-- A zone as READ_ZONES carries it (R181). -/
theorem Zone.bytes_eq (z : Zone) : z.bytes = u16 z.lower ++ u16 z.upper ++ [if z.upper < z.lower then 1 else 0] := by
  simp only [Zone.bytes, flagByte, Zone.isEmpty, byteOf, decide_eq_true_eq]
  split <;> rfl

/-- The port and the number of the zone that SET_ZONE names (R180). -/
theorem natAt_zoneNamed {port lower upper : Nat} (hp : port < 256) (hn : n < 256) :
    natAt (byteOf port ++ byteOf n ++ u16 lower ++ u16 upper) 0 1 = port ∧
      natAt (byteOf port ++ byteOf n ++ u16 lower ++ u16 upper) 1 1 = n := by
  simp only [List.append_assoc]
  refine ⟨natAt_byteOf hp _, ?_⟩
  rw [natAt_append_right (by simp)]
  exact natAt_byteOf hn _

/-- The bounds that SET_ZONE carries (R180). -/
theorem natAt_zoneBounds {port lower upper : Nat} (hl : lower < 65536) (hu : upper < 65536) :
    natAt (byteOf port ++ byteOf n ++ u16 lower ++ u16 upper) 2 2 = lower ∧
      natAt (byteOf port ++ byteOf n ++ u16 lower ++ u16 upper) 4 2 = upper := by
  refine ⟨?_, ?_⟩
  · rw [List.append_assoc, natAt_append_right (by simp)]
    exact natAt_u16 hl _
  · rw [natAt_append_right (by simp)]
    exact natAt_u16_alone hu

/-- READ_ZONES reads the four zones of the port named (R181). -/
theorem exec_readZones_of_takes {q : Port} (h : s.takes p 0x04 tag (byteOf q.code) rest) :
    exec .readZones s = .next (s.answered p rest tag .ok ((s.port q).zones.toList.flatMap Zone.bytes)) := by
  refine congrArg Host.Outcome.next (Cx.command_reads h (by decide) nofun rfl ?_)
  simp only [Cx.readZonesBody, natAt_byteOf_alone q.code_lt, portOf_code, State.taken_zones]

/-- Settles O13. -/
theorem zonesAreStoredAndReadBack : Obligations.ZonesAreStoredAndReadBack := by
  refine ⟨fun s tag rest q n lower upper hn hl hu h => ?set, fun s tag rest port n lower upper hport hn bad h => ?refused,
    fun s p q tag rest h => ?read, fun s p tag rest port hport hlt h => ?noPort⟩
  case set =>
    obtain ⟨atPort, atNumber⟩ := natAt_zoneNamed (lower := lower) (upper := upper) q.code_lt (show n < 256 by omega)
    obtain ⟨atLower, atUpper⟩ := natAt_zoneBounds (port := q.code) (n := n) hl hu
    have body : Cx.setZoneBody .a (byteOf q.code ++ byteOf n ++ u16 lower ++ u16 upper) (s.taken .a rest) =
        (⟨if lower ≤ 1535 ∧ upper ≤ 1535 then .ok else .clamped, u16 (min 1535 lower) ++ u16 (min 1535 upper)⟩,
          (s.onPort q fun x => { x with zones := x.zones.set n ⟨min 1535 lower, min 1535 upper⟩ }).taken .a rest) := by
      simp only [Cx.setZoneBody, atPort, atNumber, atLower, atUpper, portOf_code, if_neg (show ¬ 3 < n by omega)]
      cases q <;> rfl
    exact congrArg Host.Outcome.next (Cx.command_leaves h (by decide) (fun _ => rfl) rfl body)
  case refused =>
    obtain ⟨atPort, atNumber⟩ := natAt_zoneNamed (lower := lower) (upper := upper) hport hn
    by_cases high : 1 < port
    · rw [if_pos high]
      refine congrArg Host.Outcome.next (Cx.command_leaves (r := .badField 0) h (by decide) (fun _ => rfl) rfl ?_)
      simp only [Cx.setZoneBody, atPort, portOf_eq_none high]
    · rw [if_neg high]
      obtain ⟨q, hq⟩ := portOf_of_le (show port ≤ 1 by omega)
      refine congrArg Host.Outcome.next (Cx.command_leaves (r := .badField 1) h (by decide) (fun _ => rfl) rfl ?_)
      simp only [Cx.setZoneBody, atPort, atNumber, hq, if_pos (show 3 < n by omega)]
  case read =>
    rw [exec_readZones_of_takes h, show Zone.bytes = _ from funext Zone.bytes_eq]
    rfl
  case noPort =>
    refine congrArg Host.Outcome.next (Cx.command_leaves (r := .badField 0) h (by decide) nofun rfl ?_)
    simp only [Cx.readZonesBody, natAt_byteOf_alone hlt, portOf_eq_none hport]

/-! ### Timing and integrity -/

theorem durationBytes_of_le (h : n ≤ 65535) : durationBytes n = u16 n := if_pos h

theorem durationBytes_length : (durationBytes n).length = 2 := by
  unfold durationBytes
  split <;> rfl

/-- READ_TIMING reads the timing (R147). -/
theorem exec_readTiming_of_takes (h : s.takes p 0x41 tag [] rest) (bounded : s.params.nominalPeriod ≤ 131071) :
    exec .readTiming s = .next (s.answered p rest tag .ok (
      byteOf s.ftu.current.code ++ byteOf s.ftu.requested.code ++ flagByte s.ftu.switchPending ++ flagByte s.ftu.expiryHeld ++
      flagByte s.ftu.refFallback ++ s.ftu.monitor.bytes ++ beBytes 4 s.ftu.frameCount.toNat ++ beBytes 4 s.params.nominalPeriod ++
      u16 s.params.window ++ u16 s.params.halfPeriod ++ durationBytes s.params.lossDelay ++
      u16 (min 65535 (s.ftu.now - s.ftu.lastBoundary)) ++
      optU16 (s.ftu.lastPulse.map fun last => min 65535 (s.ftu.now - last)) ++ optU16 s.ftu.newer ++ optU16 s.ftu.older)) := by
  refine congrArg Host.Outcome.next (Cx.command_reads h (by decide) nofun rfl ?_)
  rw [← durationBytes_of_le (n := s.params.window) (by simp only [Params.window]; omega),
    ← durationBytes_of_le (n := s.params.halfPeriod) (by simp only [Params.halfPeriod]; omega)]
  simp only [Ftu.readBody, State.taken_ftu, State.taken_params]

/-- READ_INTEGRITY reads the counters of findings, the last finding and the scrub's place (R159). -/
theorem exec_readIntegrity_of_takes (h : s.takes p 0x4C tag [] rest) :
    exec .readIntegrity s = .next (s.answered p rest tag .ok (u16 s.store.nu.counters.sec ++ u16 s.store.nu.counters.ded ++
      findingItems s.store.finding ++ u16 s.cursor ++ beBytes 4 s.params.scrubRate ++
      optU16 (if s.params.scrubRate = 0 then none else some ((2048 + s.params.scrubRate - 1) / s.params.scrubRate)))) := by
  refine congrArg Host.Outcome.next (Cx.command_reads h (by decide) nofun rfl ?_)
  simp only [Sc.readBody, State.taken_store, State.taken_params, State.taken_cursor]

/-- Settles O43: the loss delay is the one duration that may exceed two bytes, and an absent finding has open items. -/
theorem timingAndIntegrityAreRead : Obligations.TimingAndIntegrityAreRead := by
  refine ⟨fun s p tag rest h short => ?narrow, fun s p tag rest h long bounded => ?wide, fun s p tag rest h => ?integrity⟩
  case narrow =>
    have fits : 3 * s.params.nominalPeriod / 2 ≤ 65535 := by omega
    rw [exec_readTiming_of_takes h (by omega), Params.lossDelay, durationBytes_of_le fits]
    rfl
  case wide => exact ⟨_, durationBytes_length, exec_readTiming_of_takes h bounded⟩
  case integrity =>
    have pass : 2048 + s.params.scrubRate - 1 = 2047 + s.params.scrubRate := by omega
    rw [exec_readIntegrity_of_takes h, pass]
    cases hf : s.store.finding with
    | none =>
      refine ⟨beBytes 4 Config.absentFindingFrame.toNat, [Config.absentFindingLocation], [Config.absentFindingReader], by simp, rfl, rfl,
        nofun, ?_⟩
      simp [findingItems, optU16]
    | some f =>
      refine ⟨beBytes 4 f.frame.toNat, byteOf f.location.code, byteOf f.reader.code, by simp, rfl, rfl, ?_, ?_⟩
      · rintro _ ⟨⟩
        exact ⟨rfl, rfl, rfl⟩
      · simp [findingItems, optU16]

/-! ### The load -/

theorem Load.inProgress_iff {l : Load} : l.inProgress = true ↔ l.state = .active ∨ l.state = .committing := by
  simp [Load.inProgress]

/-- Settles O44. -/
theorem loadBeginStartsALoad : Obligations.LoadBeginStartsALoad := by
  refine ⟨fun s p tag rest n hn hlt h => ?tooMany, fun s p tag rest n hn h => ⟨fun notActive notCommitting => ?begins, fun q busy owner => ?busy⟩⟩
  case tooMany =>
    refine congrArg Host.Outcome.next (Cx.command_leaves (r := .badField 0) h (by decide) nofun rfl ?_)
    simp only [Bl.beginBody, natAt_u16_alone hlt, if_pos hn]
  case begins =>
    have idle : s.load.inProgress = false := by simp [Load.inProgress, notActive, notCommitting]
    refine congrArg Host.Outcome.next (Cx.command_leaves (r := .ok _) h (by decide) nofun rfl ?_)
    simp only [Bl.beginBody, natAt_u16_alone (show n < 65536 by omega), if_neg (show ¬ 2047 < n by omega), State.taken_load, idle,
      State.taken_params]
    cases p <;> rfl
  case busy =>
    refine congrArg Host.Outcome.next (Cx.command_leaves (r := ⟨.busy, _⟩) h (by decide) nofun rfl ?_)
    simp only [Bl.beginBody, natAt_u16_alone (show n < 65536 by omega), if_neg (show ¬ 2047 < n by omega), State.taken_load,
      Load.inProgress_iff.2 busy, owner]
    rfl

/-- The loaded count of R160. -/
theorem Load.loadedCount_eq (l : Load) :
    l.loadedCount = if l.state = .active ∨ l.state = .committing then l.list.length else l.count := by
  simp only [Load.loadedCount, Load.inProgress_iff]

/-- LOAD_STATUS reads the load's fields (R170). -/
theorem exec_loadStatus_of_takes (h : s.takes p 0x53 tag [] rest) :
    exec .loadStatus s = .next (s.answered p rest tag .ok (byteOf s.load.state.code ++ byteOf (ownerCode s.load.owner) ++
      beInt 2 s.load.remaining ++ optU16 s.load.lastSlot ++ u16 s.load.loadedCount ++ Bl.stateItems s)) := by
  refine congrArg Host.Outcome.next (Cx.command_reads h (by decide) nofun rfl ?_)
  simp only [Bl.statusBody, Bl.stateItems, State.nextFrame, State.taken_load, State.taken_ftu]

/-- Settles O48. -/
theorem seatAndLoadAreRead : Obligations.SeatAndLoadAreRead := by
  refine ⟨fun s p tag rest n hn h => ?seat, fun s p tag rest n hn hlt h => ?noSeat, fun s p tag rest h => ?load⟩
  case seat =>
    refine congrArg Host.Outcome.next (Cx.command_reads h (by decide) nofun rfl ?_)
    simp only [Pu.readBody, natAt_u16_alone (show n < 65536 by omega), if_neg (show ¬ 1535 < n by omega), State.taken_seat, State.taken_cd]
  case noSeat =>
    refine congrArg Host.Outcome.next (Cx.command_leaves (r := .badField 0) h (by decide) nofun rfl ?_)
    simp only [Pu.readBody, natAt_u16_alone hlt, if_pos hn]
  case load =>
    rw [exec_loadStatus_of_takes h, Load.loadedCount_eq]
    rcases s.load.owner with _ | _ | _ <;> rfl

/-! ### The pending bank and the outcome -/

section
variable {payload : List Byte} {body : Nat → State → Reply × State}

theorem withSlot_bad (h : 2047 < natAt payload 0 2) : withSlot payload body s = (.badField 0, s) := if_pos h

theorem withSlot_free (h : natAt payload 0 2 = n) (hn : n ≤ 2047) (free : (s.record n).inUse = false) :
    withSlot payload body s = (.bare .noRecord, s) := by
  subst h
  simp only [withSlot, if_neg (Nat.not_lt.2 hn), free, Bool.not_false, if_true]

theorem withSlot_inUse (h : natAt payload 0 2 = n) (hn : n ≤ 2047) (inUse : (s.record n).inUse = true) :
    withSlot payload body s = body n s := by
  subst h
  simp only [withSlot, if_neg (Nat.not_lt.2 hn), inUse, Bool.not_true, Bool.false_eq_true, if_false]

end

section
variable {body : State → Reply × State}

theorem withHold_none (h : (s.record n).hold = .none) : withHold p n body s = (.bare .notHeld, s) := if_pos h

theorem withHold_other (h : (s.record n).hold ≠ .none) (hp : (s.record n).hold ≠ p.hold) :
    withHold p n body s = (⟨.held, byteOf (s.record n).hold.code⟩, s) := (if_neg h).trans (if_pos hp)

theorem withHold_own (h : (s.record n).hold = p.hold) : withHold p n body s = body s :=
  (if_neg (by rw [h]; cases p <;> nofun)).trans (if_neg (by simp [h]))

end

/-- In a store without errors the pending bank is read as it stands. -/
theorem Cu.readPendingBank_clean (clean : s.clean) : Cu.readPendingBank n s = ((s.record n).pendingBank, s) := by
  simp only [Cu.readPendingBank, State.read_clean clean, Store.bankRead_clean clean]

/-- QUERY_COMMIT reads the port's outcome, its last expiry and the extent of its work (R126). -/
theorem exec_queryCommit_of_takes (h : s.takes p 0x39 tag [] rest) :
    exec .queryCommit s = .next (s.answered p rest tag .ok (beBytes 4 (s.port p).outcome.frame.toNat ++ u16 (s.port p).outcome.committed ++
      u16 (s.port p).outcome.failed ++ optU16 (s.port p).outcome.firstFailed ++ expiryItems (s.port p).expiry ++
      u16 (s.port p).commitList.length ++ u16 (s.port p).scheduled.length ++
      u16 ((s.slotsWhere fun r => r.hold == p.hold && r.condition == .opened).length))) := by
  refine congrArg Host.Outcome.next (Cx.command_reads h (by decide) nofun rfl ?_)
  simp only [Cu.queryBody, State.slotsWhere, State.taken_outcome, State.taken_expiry, State.taken_commitList, State.taken_scheduled,
    State.taken_store, State.taken_record]

/-- Settles O32. -/
theorem pendingBankAndOutcomeAreRead : Obligations.PendingBankAndOutcomeAreRead := by
  refine ⟨fun s p tag rest n clean hn inUse h hold => ?pending, fun s p tag rest e h expiry => ?outcome, fun s p tag rest h expiry => ?noExpiry⟩
  case pending =>
    refine congrArg Host.Outcome.next (Cx.command_reads h (by decide) nofun rfl ?_)
    have own : ((s.taken p rest).record n).hold = p.hold := by rwa [State.taken_record]
    rw [Cu.readBody, withSlot_inUse (natAt_u16_alone (show n < 65536 by omega)) hn (by rwa [State.taken_record]), withHold_own own,
      Cu.readPendingBank_clean (State.taken_clean.2 clean)]
    simp only [State.taken_record, State.taken_commitList]
    rfl
  case outcome =>
    rw [exec_queryCommit_of_takes h, expiry, expiryItems]
    simp only [List.append_assoc]
  case noExpiry =>
    refine ⟨beBytes 4 Config.absentExpiryFrame.toNat ++ halfBytes Config.absentExpiryCount, by simp, ?_⟩
    rw [exec_queryCommit_of_takes h, expiry, expiryItems]
    simp only [List.append_assoc]

end Sys2Proof.Machine
end

section
/-! PROOF. The CRC-16 over bytes with their own CRC behind them (R176), and the sampling of the Tile Return Link (R51). -/
namespace Sys2Proof.Machine

-- One declaration after another: as one text the file has more of them than it may have threads.
set_option Elab.async false

/-! ### CRC-16 (R176) -/

/-- A register whose top bit is clear is shifted alone. -/
theorem crcShift_of_lt {r : Half} (h : r.toNat < 2 ^ 15) : crcShift r = r <<< 1 := by
  have msb : r.msb = false := by rw [BitVec.msb_eq_decide]; simpa using h
  simp only [crcShift, msb, Bool.false_eq_true, if_false]

/-- A register whose top `k` bits are clear is shifted alone for `k` bits. -/
theorem crcShift_iterate {r : Half} {k : Nat} (h : r.toNat * 2 ^ k < 2 ^ 16) : crcShift^[k] r = r <<< k := by
  induction k generalizing r with
  | zero => simp
  | succ k ih =>
    have grow : r.toNat * 2 ^ (k + 1) = r.toNat * 2 * 2 ^ k := by rw [pow_succ]; ring
    have double : r.toNat * 2 ≤ r.toNat * 2 * 2 ^ k := Nat.le_mul_of_pos_right _ (by positivity)
    have shifted : (r <<< 1).toNat = r.toNat * 2 := by
      rw [BitVec.toNat_shiftLeft, Nat.shiftLeft_eq, Nat.mod_eq_of_lt (by omega)]
    rw [Function.iterate_succ_apply, crcShift_of_lt (by omega), ih (by rw [shifted]; omega), Nat.add_comm k 1, BitVec.shiftLeft_add]

/-- A register that holds one byte has it in its upper half after eight shifts. -/
theorem crcByte_of_upper {r : Half} {b c : Byte} (h : r = b.zeroExtend 16 <<< 8 ^^^ c.zeroExtend 16) : crcByte r b = c.zeroExtend 16 <<< 8 := by
  have low : r ^^^ b.zeroExtend 16 <<< 8 = c.zeroExtend 16 := by
    rw [h, BitVec.xor_comm, ← BitVec.xor_assoc, BitVec.xor_self, BitVec.zero_xor]
  rw [crcByte, low, crcShift_iterate]
  have := c.isLt
  rw [BitVec.zeroExtend, BitVec.toNat_setWidth, Nat.mod_eq_of_lt (by omega)]
  omega

/-- A word is its upper byte over its lower one. -/
theorem halfBytes_upper_lower (v : Half) : ∃ b c : Byte, halfBytes v = [b, c] ∧ v = b.zeroExtend 16 <<< 8 ^^^ c.zeroExtend 16 := by
  refine ⟨(v >>> 8).setWidth 8, v.setWidth 8, ?_, ?_⟩
  · simp only [halfBytes, beBytes, List.cons.injEq, and_true]
    constructor <;> apply BitVec.eq_of_toNat_eq <;> simp [Nat.shiftRight_eq_div_pow]
  · refine BitVec.eq_of_getLsbD_eq fun i hi => ?_
    rcases Nat.lt_or_ge i 8 with low | high
    · simp [low, hi]
    · have upper : i - 8 < 8 := by omega
      simp [Nat.not_lt.2 high, hi, upper, Nat.add_sub_cancel' high]

/-- Settles O53: the two CRC bytes empty the register, the upper into the lower and the lower to nothing. -/
theorem crcChecksItself : Obligations.CrcChecksItself := by
  refine ⟨by decide +kernel, rfl, fun bytes => ?_⟩
  obtain ⟨b, c, split, crc⟩ := halfBytes_upper_lower (crc16 bytes)
  have last : crcByte (c.zeroExtend 16 <<< 8) c = (0 : Byte).zeroExtend 16 <<< 8 := crcByte_of_upper (by simp)
  calc crc16 (bytes ++ halfBytes (crc16 bytes)) = crcByte (crcByte (crc16 bytes) b) c := by
        rw [split, crc16, List.foldl_append, ← crc16]
        rfl
    _ = crcByte (c.zeroExtend 16 <<< 8) c := by rw [crcByte_of_upper crc]
    _ = 0 := by rw [last]; rfl

/-! ### Sampling the Tile Return Link (R51) -/

section
variable {bytes : List Byte} {idle : Nat} {frame : List (Byte × Nat)}

/-- The idle periods behind the last byte of a frame. -/
def idleBehind (idle : Nat) (frame : List (Byte × Nat)) : Nat := frame.getLast?.elim idle Prod.snd

theorem idleBehind_cons (e : Byte × Nat) : idleBehind idle (e :: frame) = idleBehind e.2 frame := by
  cases h : frame.getLast? <;> simp [idleBehind, List.getLast?_cons, h]

theorem idleBehind_lt (hi : idle < 16) (h : ∀ e ∈ frame, e.2 < 16) : idleBehind idle frame < 16 := by
  cases hl : frame.getLast? with
  | none => simpa [idleBehind, hl] using hi
  | some e => simpa [idleBehind, hl] using h e (List.mem_of_getLast? hl)

/-- The bytes of a frame behind others, each with its idle periods behind it. -/
theorem Line.run_bytes (h : ∀ e ∈ frame, e.2 < 16) :
    (Line.behind bytes idle).run (frame.flatMap fun e => byteSamples e.1 ++ List.replicate e.2 true) =
      ([], .behind (bytes ++ frame.map Prod.fst) (idleBehind idle frame)) := by
  induction frame generalizing bytes idle with
  | nil => simp [idleBehind]
  | cons e frame ih =>
    obtain ⟨he, hframe⟩ := List.forall_mem_cons.1 h
    rw [List.flatMap_cons, Line.run_append, Line.run_append, Line.run_byte]
    simp only [Line.run_gap (show 0 + e.2 < 16 by omega), ih hframe, idleBehind_cons, List.nil_append, Nat.zero_add, List.map_cons,
      List.append_assoc, List.singleton_append]

/-- The sixteenth idle period behind a byte ends its frame. -/
theorem Line.run_end (h : idle < 16) : (Line.behind bytes idle).run (List.replicate (16 - idle) true) = ([(bytes, true)], .between 16) := by
  obtain ⟨n, hn⟩ : ∃ n, 16 - idle = n + 1 := ⟨15 - idle, by omega⟩
  rw [hn, List.replicate_succ', Line.run_append, Line.run_gap (show idle + n < 16 by omega)]
  simp only [Line.run, Line.sample, if_true, if_pos (show 16 ≤ idle + n + 1 by omega), List.nil_append]

/-- Data bits behind a start bit are taken one by one. -/
theorem Line.run_data {bits taken : List Bool} (h : taken.length + bits.length ≤ 8) : (Line.within bytes taken).run bits = ([], .within bytes (taken ++ bits)) := by
  induction bits generalizing taken with
  | nil => simp
  | cons bit bits ih =>
    rw [List.length_cons] at h
    simp only [Line.run, Line.sample, if_pos (show taken.length < 8 by omega)]
    rw [ih (by simp; omega), List.append_assoc, List.singleton_append]

/-- Settles O55. -/
theorem sampledFrameRoundTrip : Obligations.SampledFrameRoundTrip := by
  refine ⟨fun frame nonempty gaps => ?frame, fun bytes idle bits hbits => ?badStop, fun idle n hidle => ⟨Line.run_idle hidle, fun short => ?early⟩⟩
  case frame =>
    cases frame with
    | nil => exact absurd rfl nonempty
    | cons e frame =>
      obtain ⟨he, hframe⟩ := List.forall_mem_cons.1 gaps
      have last : (e :: frame).getLast?.elim 0 Prod.snd = idleBehind e.2 frame := idleBehind_cons e
      rw [last, List.flatMap_cons, Line.run_append, Line.run_append, Line.run_append, Line.run_first]
      simp only [Line.run_gap (show 0 + e.2 < 16 by omega), Line.run_bytes hframe, Line.run_end (idleBehind_lt (by omega) hframe),
        List.nil_append, List.map_cons, Nat.zero_add, List.singleton_append]
  case badStop =>
    have data := Line.run_data (bytes := bytes) (taken := []) (bits := bits) (by simp [hbits])
    have first : (Line.behind bytes idle).run (false :: bits ++ [false]) = (Line.within bytes []).run (bits ++ [false]) := rfl
    rw [first, Line.run_append, data]
    simp only [Line.run, Line.sample, List.nil_append, hbits, Nat.lt_irrefl, if_false, Bool.false_eq_true]
  case early =>
    rw [Line.run_append, Line.run_idle hidle]
    simp only [Line.run, Line.sample, Bool.false_eq_true, if_false, if_neg (show ¬ 16 ≤ min 16 (idle + n) by omega), List.nil_append]

end

end Sys2Proof.Machine
end

section
/-! PROOF. Bank images: what their fields read back, which bytes are one, and which field of any others is named (R7, R111, R188). -/
namespace Sys2Proof.Machine

-- One declaration after another: as one text the file has more of them than it may have threads.
set_option Elab.async false

variable {bytes : List Byte} {k : Nat}

/-! ### Fields of two bytes -/

theorem field_append_field {m n : Nat} : field bytes k n ++ field bytes (k + n) m = field bytes k (n + m) := by
  rw [field, field, field, ← List.drop_drop, ← List.take_add]

theorem field_all {n : Nat} (h : bytes.length = n) : field bytes 0 n = bytes := by simp [field, ← h]

theorem exists_pair (h : k + 2 ≤ bytes.length) : ∃ x y : Byte, field bytes k 2 = [x, y] := by
  have len : (field bytes k 2).length = 2 := by simp [field]; omega
  match hf : field bytes k 2, len with
  | [x, y], _ => exact ⟨x, y, rfl⟩

theorem u16_natAt (h : k + 2 ≤ bytes.length) : u16 (natAt bytes k 2) = field bytes k 2 := by
  obtain ⟨x, y, pair⟩ := exists_pair h
  have hx := x.isLt
  have hy := y.isLt
  have word := halfBytes_ofNat_beNat x y
  rwa [halfBytes, BitVec.toNat_ofNat, Nat.mod_eq_of_lt (by simp [beNat]; omega), ← pair] at word

theorem byteOf_natAt (h : k + 1 ≤ bytes.length) : byteOf (natAt bytes k 1) = field bytes k 1 := by
  have len : (field bytes k 1).length = 1 := by simp [field]; omega
  rw [natAt]
  match field bytes k 1, len with
  | [x], _ => simp [byteOf, beNat]

/-- A field with the bytes behind it. -/
theorem field_append_drop {m n : Nat} (h : k + n = m) : field bytes k n ++ bytes.drop m = bytes.drop k := by
  rw [field, ← h, ← List.drop_drop, List.take_append_drop]

theorem beInt_intAt (h : k + 2 ≤ bytes.length) : beInt 2 (intAt bytes k) = field bytes k 2 := by
  obtain ⟨x, y, pair⟩ := exists_pair h
  rw [intAt, pair, ← halfBytes_ofNat_beNat x y, beSigned, beInt, halfBytes]
  generalize BitVec.ofNat 16 (beNat [x, y]) = v
  rw [beNat_beBytes_of_lt v.isLt, BitVec.ofNat_toNat, BitVec.setWidth_eq]
  congr 1
  have := v.isLt
  rw [BitVec.toInt_eq_toNat_bmod, Int.bmod]
  split <;> omega

theorem beNat_lt (bytes : List Byte) : beNat bytes < 256 ^ bytes.length := by
  induction bytes with
  | nil => decide
  | cons b bytes ih =>
    have step : b.toNat * 256 ^ bytes.length ≤ 255 * 256 ^ bytes.length := Nat.mul_le_mul_right _ (Nat.le_of_lt_succ b.isLt)
    rw [beNat_cons, List.length_cons, pow_succ]
    omega

theorem natAt_lt {n : Nat} : natAt bytes k n < 256 ^ n :=
  (beNat_lt _).trans_le (Nat.pow_le_pow_right (by decide) (List.length_take_le ..))

theorem intAt_mem : -32768 ≤ intAt bytes k ∧ intAt bytes k ≤ 32767 := by
  have := BitVec.le_toInt (BitVec.ofNat 16 (beNat (field bytes k 2)))
  have := BitVec.toInt_lt (x := BitVec.ofNat 16 (beNat (field bytes k 2)))
  rw [intAt, beSigned]
  omega

theorem intAt_append_right {more : List Byte} (h : bytes.length ≤ k) : intAt (bytes ++ more) k = intAt more (k - bytes.length) := by
  rw [intAt, field_append_right h, intAt]

theorem intAt_beInt {more : List Byte} {v : Int} (h : -32768 ≤ v ∧ v ≤ 32767) : intAt (beInt 2 v ++ more) 0 = v := by
  rw [intAt, field, List.drop_zero, List.take_left' (beInt_length 2 v), beSigned_beInt h]

/-! ### Three values one behind the other -/

theorem Prim.signed16_iff {p : Prim Int} :
    p.signed16 = true ↔ (-32768 ≤ p.r ∧ p.r ≤ 32767) ∧ (-32768 ≤ p.g ∧ p.g ≤ 32767) ∧ -32768 ≤ p.b ∧ p.b ≤ 32767 := by
  simp [Prim.signed16, Prim.any]
  omega

theorem Prim.unsigned16_iff {p : Prim Nat} : p.unsigned16 = true ↔ p.r < 65536 ∧ p.g < 65536 ∧ p.b < 65536 := by
  simp [Prim.unsigned16, Prim.any]
  omega

/-- The bytes of three signed values. -/
def Prim.intBytes (p : Prim Int) : List Byte := p.toList.flatMap (beInt 2)

/-- The bytes of three unsigned values. -/
def Prim.natBytes (p : Prim Nat) : List Byte := p.toList.flatMap u16

theorem Prim.intBytes_eq (p : Prim Int) : p.intBytes = beInt 2 p.r ++ (beInt 2 p.g ++ beInt 2 p.b) := by
  simp [Prim.intBytes, Prim.toList]

theorem Prim.natBytes_eq (p : Prim Nat) : p.natBytes = u16 p.r ++ (u16 p.g ++ u16 p.b) := by
  simp [Prim.natBytes, Prim.toList]

@[simp] theorem Prim.intBytes_length (p : Prim Int) : p.intBytes.length = 6 := by simp [Prim.intBytes_eq]

@[simp] theorem Prim.natBytes_length (p : Prim Nat) : p.natBytes.length = 6 := by simp [Prim.natBytes_eq]

theorem intsAt_intBytes {more : List Byte} {p : Prim Int} (h : p.signed16 = true) : intsAt (p.intBytes ++ more) 0 = p := by
  obtain ⟨hr, hg, hb⟩ := Prim.signed16_iff.1 h
  rw [Prim.intBytes_eq, List.append_assoc, List.append_assoc, intsAt]
  congr 1
  · exact intAt_beInt hr
  · rw [intAt_append_right (by simp)]
    exact intAt_beInt hg
  · rw [intAt_append_right (by simp), intAt_append_right (by simp)]
    exact intAt_beInt hb

theorem natsAt_natBytes {more : List Byte} {p : Prim Nat} (h : p.unsigned16 = true) : natsAt (p.natBytes ++ more) 0 = p := by
  obtain ⟨hr, hg, hb⟩ := Prim.unsigned16_iff.1 h
  rw [Prim.natBytes_eq, List.append_assoc, List.append_assoc, natsAt]
  congr 1
  · exact natAt_u16 hr _
  · rw [natAt_append_right (by simp)]
    exact natAt_u16 hg _
  · rw [natAt_append_right (by simp), natAt_append_right (by simp)]
    exact natAt_u16 hb _

theorem intsAt_append_right {more : List Byte} (h : bytes.length ≤ k) : intsAt (bytes ++ more) k = intsAt more (k - bytes.length) := by
  simp only [intsAt, intAt_append_right h, intAt_append_right (show bytes.length ≤ k + 2 by omega),
    intAt_append_right (show bytes.length ≤ k + 4 by omega), Nat.sub_add_comm h]

theorem natsAt_append_right {more : List Byte} (h : bytes.length ≤ k) : natsAt (bytes ++ more) k = natsAt more (k - bytes.length) := by
  simp only [natsAt, natAt_append_right h, natAt_append_right (show bytes.length ≤ k + 2 by omega),
    natAt_append_right (show bytes.length ≤ k + 4 by omega), Nat.sub_add_comm h]

theorem intBytes_intsAt (h : k + 6 ≤ bytes.length) : (intsAt bytes k).intBytes = field bytes k 6 := by
  rw [Prim.intBytes_eq, intsAt]
  simp only [beInt_intAt (show k + 2 ≤ bytes.length by omega), beInt_intAt (show k + 2 + 2 ≤ bytes.length by omega),
    beInt_intAt (show k + 4 + 2 ≤ bytes.length by omega)]
  rw [show k + 4 = k + 2 + 2 from rfl, field_append_field, field_append_field]

theorem natBytes_natsAt (h : k + 6 ≤ bytes.length) : (natsAt bytes k).natBytes = field bytes k 6 := by
  rw [Prim.natBytes_eq, natsAt]
  simp only [u16_natAt (show k + 2 ≤ bytes.length by omega), u16_natAt (show k + 2 + 2 ≤ bytes.length by omega),
    u16_natAt (show k + 4 + 2 ≤ bytes.length by omega)]
  rw [show k + 4 = k + 2 + 2 from rfl, field_append_field, field_append_field]

theorem signed16_intsAt : (intsAt bytes k).signed16 = true := Prim.signed16_iff.2 ⟨intAt_mem, intAt_mem, intAt_mem⟩

theorem unsigned16_natsAt : (natsAt bytes k).unsigned16 = true := Prim.unsigned16_iff.2 ⟨natAt_lt, natAt_lt, natAt_lt⟩

/-! ### Trim entries -/

theorem edgeOf_code (e : Edge) : edgeOf e.code = some e := by cases e <;> rfl

theorem Edge.code_le (e : Edge) : e.code ≤ 3 := by cases e <;> decide

theorem exists_edge {n : Nat} (h : n ≤ 3) : ∃ e : Edge, e.code = n := by
  interval_cases n
  exacts [⟨.top, rfl⟩, ⟨.bottom, rfl⟩, ⟨.left, rfl⟩, ⟨.right, rfl⟩]

/-- The byte of an edge. -/
def Edge.byte (e : Edge) : Byte := BitVec.ofNat 8 e.code

theorem Edge.byte_toNat (e : Edge) : e.byte.toNat = e.code := by cases e <;> rfl

theorem Edge.byte_inj {e f : Edge} (h : e.byte = f.byte) : e = f := by
  have codes := congrArg (fun b => edgeOf b.toNat) h
  simpa only [Edge.byte_toNat, edgeOf_code, Option.some.injEq] using codes

theorem Trim.valid_iff {t : Trim} : t.valid = true ↔ 1 ≤ t.width ∧ t.width ≤ 8 ∧ 128 ≤ t.factor ∧ t.factor ≤ 256 := by
  simp [Trim.valid]

/-- The four bytes of a valid trim entry. -/
theorem trimBytes_eq {t : Trim} (h : t.valid = true) :
    ∃ w x y : Byte, trimBytes t = [t.edge.byte, w, x, y] ∧ w.toNat = t.width ∧ beNat [x, y] = t.factor := by
  obtain ⟨_, wide, _, even⟩ := Trim.valid_iff.1 h
  refine ⟨_, _, _, rfl, by rw [BitVec.toNat_ofNat]; omega, ?_⟩
  exact beNat_beBytes_of_lt (n := 2) (by omega)

/-- Four bytes whose values lie in the ranges of a trim entry are one. -/
theorem exists_trim {e w x y : Byte} (he : e.toNat ≤ 3) (hw : 1 ≤ w.toNat ∧ w.toNat ≤ 8) (hf : 128 ≤ beNat [x, y] ∧ beNat [x, y] ≤ 256) :
    ∃ t : Trim, t.valid = true ∧ t.edge.byte = e ∧ trimBytes t = [e, w, x, y] := by
  obtain ⟨edge, code⟩ := exists_edge he
  have byte : edge.byte = e := BitVec.eq_of_toNat_eq (by rw [Edge.byte_toNat, code])
  refine ⟨⟨edge, w.toNat, beNat [x, y]⟩, Trim.valid_iff.2 ⟨hw.1, hw.2, hf.1, hf.2⟩, byte, ?_⟩
  have factor : u16 (beNat [x, y]) = [x, y] := u16_natAt (bytes := [x, y]) (k := 0) (by simp)
  rw [trimBytes, factor, byteOf, byteOf, ← Edge.byte, byte, BitVec.ofNat_toNat, BitVec.setWidth_eq]
  rfl

@[simp] theorem trimBytes_length (t : Trim) : (trimBytes t).length = 4 := by simp [trimBytes]

theorem trimBytes_flatMap_length (trims : List Trim) : (trims.flatMap trimBytes).length = 4 * trims.length := by
  induction trims with
  | nil => rfl
  | cons t trims ih => simp [ih]; omega

theorem trimsOf_flatMap {trims : List Trim} (h : ∀ t ∈ trims, t.valid = true) : trimsOf (trims.flatMap trimBytes) = trims := by
  induction trims with
  | nil => rfl
  | cons t trims ih =>
    obtain ⟨ht, htrims⟩ := List.forall_mem_cons.1 h
    obtain ⟨w, x, y, bytes, width, factor⟩ := trimBytes_eq ht
    rw [List.flatMap_cons, bytes]
    simp only [List.cons_append, List.nil_append, trimsOf, Edge.byte_toNat, edgeOf_code, ih htrims, width, factor]

/-- Valid entries of different edges show no fault. -/
theorem trimFault_flatMap {offset : Nat} {trims : List Trim} {seen : List Byte} (h : ∀ t ∈ trims, t.valid = true) (edges : (trims.map Trim.edge).Nodup)
    (unseen : ∀ t ∈ trims, t.edge.byte ∉ seen) : trimFault seen offset (trims.flatMap trimBytes) = none := by
  induction trims generalizing seen offset with
  | nil => rfl
  | cons t trims ih =>
    obtain ⟨ht, htrims⟩ := List.forall_mem_cons.1 h
    obtain ⟨hseen, hunseen⟩ := List.forall_mem_cons.1 unseen
    obtain ⟨hedge, hedges⟩ := List.nodup_cons.1 edges
    obtain ⟨w, x, y, bytes, width, factor⟩ := trimBytes_eq ht
    obtain ⟨w1, w8, f128, f256⟩ := Trim.valid_iff.1 ht
    have other : ∀ u ∈ trims, u.edge.byte ∉ t.edge.byte :: seen := fun u hu hmem => by
      rcases List.mem_cons.1 hmem with same | old
      · exact hedge (Edge.byte_inj same ▸ List.mem_map_of_mem hu)
      · exact hunseen u hu old
    have code := t.edge.code_le
    rw [List.flatMap_cons, bytes]
    simp only [List.cons_append, List.nil_append, trimFault, Edge.byte_toNat, width, factor, hseen, or_false]
    rw [if_neg (by omega), if_neg (by omega), if_neg (by omega)]
    exact ih htrims hedges other

/-- Bytes that show no fault are valid entries of different edges. -/
theorem exists_trims {n offset : Nat} {seen : List Byte} (h : trimFault seen offset bytes = none) (len : bytes.length = 4 * n) :
    ∃ trims : List Trim, bytes = trims.flatMap trimBytes ∧ trims.length = n ∧ (∀ t ∈ trims, t.valid = true) ∧
      (trims.map Trim.edge).Nodup ∧ ∀ t ∈ trims, t.edge.byte ∉ seen := by
  induction n generalizing bytes seen offset with
  | zero => exact ⟨[], List.eq_nil_of_length_eq_zero len, rfl, by simp⟩
  | succ n ih =>
    match bytes, len with
    | e :: w :: x :: y :: more, len =>
      simp only [trimFault] at h
      split_ifs at h with hedge hwidth hfactor
      obtain ⟨t, valid, byte, entry⟩ := exists_trim (e := e) (w := w) (x := x) (y := y) (by omega) (by omega) (by omega)
      obtain ⟨trims, image, count, valids, edges, unseen⟩ := ih h (by simp at len; omega)
      refine ⟨t :: trims, by simp [entry, ← image], by simp [count], List.forall_mem_cons.2 ⟨valid, valids⟩, ?_, ?_⟩
      · refine List.nodup_cons.2 ⟨fun hmem => ?_, edges⟩
        obtain ⟨u, hu, same⟩ := List.mem_map.1 hmem
        exact unseen u hu (by simp [same, byte])
      · refine List.forall_mem_cons.2 ⟨fun hmem => hedge (.inr (byte ▸ hmem)), fun u hu hmem => ?_⟩
        exact unseen u hu (List.mem_cons_of_mem _ hmem)

/-! ### The first trim entry at fault -/

/-- The edge code of entry `k`. -/
def trimEdgeAt (bytes : List Byte) (k : Nat) : Nat := natAt bytes (4 * k) 1

/-- The edge of entry `k` is one, and none before it has it. -/
def TrimFresh (bytes : List Byte) (k : Nat) : Prop := trimEdgeAt bytes k ≤ 3 ∧ ∀ j, j < k → trimEdgeAt bytes j ≠ trimEdgeAt bytes k

/-- The width of entry `k` lies in its range. -/
def TrimWide (bytes : List Byte) (k : Nat) : Prop := 1 ≤ natAt bytes (4 * k + 1) 1 ∧ natAt bytes (4 * k + 1) 1 ≤ 8

/-- The factor of entry `k` lies in its range. -/
def TrimEven (bytes : List Byte) (k : Nat) : Prop := 128 ≤ natAt bytes (4 * k + 2) 2 ∧ natAt bytes (4 * k + 2) 2 ≤ 256

/-- The edge bytes of the entries before entry `k`, the last of them first. -/
def trimSeen (bytes : List Byte) : Nat → List Byte
  | 0 => []
  | k + 1 => BitVec.ofNat 8 (trimEdgeAt bytes k) :: trimSeen bytes k

theorem mem_trimSeen {bytes : List Byte} {k i : Nat} :
    BitVec.ofNat 8 (trimEdgeAt bytes i) ∈ trimSeen bytes k ↔ ∃ j, j < k ∧ trimEdgeAt bytes j = trimEdgeAt bytes i := by
  have inj : ∀ j, BitVec.ofNat 8 (trimEdgeAt bytes i) = BitVec.ofNat 8 (trimEdgeAt bytes j) ↔ trimEdgeAt bytes j = trimEdgeAt bytes i := by
    intro j
    have hi : trimEdgeAt bytes i < 256 := natAt_lt
    have hj : trimEdgeAt bytes j < 256 := natAt_lt
    rw [← BitVec.toNat_inj, BitVec.toNat_ofNat, BitVec.toNat_ofNat]
    omega
  induction k with
  | zero => simp [trimSeen]
  | succ k ih =>
    simp only [trimSeen, List.mem_cons, inj, ih, Nat.lt_succ_iff_lt_or_eq, or_and_right, exists_or, exists_eq_left]
    exact or_comm

/-- The check of entry `k`, and of the entries behind it. -/
theorem trimFault_drop {offset : Nat} {seen : List Byte} (h : 4 * k + 4 ≤ bytes.length) :
    trimFault seen offset (bytes.drop (4 * k)) =
      if 3 < trimEdgeAt bytes k ∨ BitVec.ofNat 8 (trimEdgeAt bytes k) ∈ seen then some offset
      else if natAt bytes (4 * k + 1) 1 < 1 ∨ 8 < natAt bytes (4 * k + 1) 1 then some (offset + 1)
      else if natAt bytes (4 * k + 2) 2 < 128 ∨ 256 < natAt bytes (4 * k + 2) 2 then some (offset + 2)
      else trimFault (BitVec.ofNat 8 (trimEdgeAt bytes k) :: seen) (offset + 4) (bytes.drop (4 * (k + 1))) := by
  have at_ : ∀ i n, natAt bytes (4 * k + i) n = natAt (bytes.drop (4 * k)) i n := fun i n => by
    simp only [natAt, field, List.drop_drop]
  have behind : bytes.drop (4 * (k + 1)) = (bytes.drop (4 * k)).drop 4 := by rw [List.drop_drop]; rfl
  have len : 4 ≤ (bytes.drop (4 * k)).length := by simp; omega
  rw [trimEdgeAt, ← Nat.add_zero (4 * k), at_ 0, at_ 1, at_ 2, behind, Nat.add_zero]
  match bytes.drop (4 * k), len with
  | e :: w :: x :: y :: more, _ => simp [trimFault, natAt, field, beNat]

/-- Where the entries before entry `k` are at no fault, the check comes to entry `k`. -/
theorem trimFault_of_good {offset : Nat} (good : ∀ j, j < k → TrimFresh bytes j ∧ TrimWide bytes j ∧ TrimEven bytes j) (h : 4 * k ≤ bytes.length) :
    trimFault [] offset bytes = trimFault (trimSeen bytes k) (offset + 4 * k) (bytes.drop (4 * k)) := by
  induction k with
  | zero => rfl
  | succ k ih =>
    obtain ⟨⟨edge, unseen⟩, ⟨w1, w8⟩, f128, f256⟩ := good k (Nat.lt_succ_self k)
    have new : BitVec.ofNat 8 (trimEdgeAt bytes k) ∉ trimSeen bytes k := fun hmem => by
      obtain ⟨j, hj, same⟩ := mem_trimSeen.1 hmem
      exact unseen j hj same
    rw [ih (fun j hj => good j (Nat.lt_succ_of_lt hj)) (by omega), trimFault_drop (by omega), if_neg (by simp [new]; omega),
      if_neg (by omega), if_neg (by omega)]
    rfl

/-- The fault of entry `k`, where the entries before it are at none. -/
theorem trimFault_at {offset : Nat} (good : ∀ j, j < k → TrimFresh bytes j ∧ TrimWide bytes j ∧ TrimEven bytes j) (h : 4 * k + 4 ≤ bytes.length) :
    (¬ TrimFresh bytes k → trimFault [] offset bytes = some (offset + 4 * k)) ∧
    (TrimFresh bytes k → ¬ TrimWide bytes k → trimFault [] offset bytes = some (offset + 4 * k + 1)) ∧
    (TrimFresh bytes k → TrimWide bytes k → ¬ TrimEven bytes k → trimFault [] offset bytes = some (offset + 4 * k + 2)) := by
  have fresh : TrimFresh bytes k ↔ ¬ (3 < trimEdgeAt bytes k ∨ BitVec.ofNat 8 (trimEdgeAt bytes k) ∈ trimSeen bytes k) := by
    rw [mem_trimSeen, TrimFresh]
    push Not
    rfl
  have wide : TrimWide bytes k ↔ ¬ (natAt bytes (4 * k + 1) 1 < 1 ∨ 8 < natAt bytes (4 * k + 1) 1) := by
    rw [TrimWide]
    omega
  have even : TrimEven bytes k ↔ ¬ (natAt bytes (4 * k + 2) 2 < 128 ∨ 256 < natAt bytes (4 * k + 2) 2) := by
    rw [TrimEven]
    omega
  rw [trimFault_of_good good (by omega), trimFault_drop h, fresh, wide, even]
  refine ⟨fun h1 => if_pos (not_not.1 h1), fun h1 h2 => ?_, fun h1 h2 h3 => ?_⟩
  · rw [if_neg h1, if_pos (not_not.1 h2)]
  · rw [if_neg h1, if_neg h2, if_pos (not_not.1 h3)]

/-! ### Groups -/

theorem thetaOut_eq_false {θ : Int} : thetaOut θ = false ↔ -80 ≤ θ ∧ θ ≤ 200 := by
  simp [thetaOut]

/-- The trims of a valid bank. -/
def ValidTrims (trims : List Trim) : Prop := trims.length ≤ 4 ∧ (∀ t ∈ trims, t.valid = true) ∧ (trims.map Trim.edge).Nodup

/-- A bank is valid where each of its fields is. -/
theorem Bank.valid_iff {b : Bank} : b.valid = true ↔
    b.matrix.r.signed16 = true ∧ b.matrix.g.signed16 = true ∧ b.matrix.b.signed16 = true ∧ b.gains.unsigned16 = true ∧
      thetaOut b.thetaRef = false ∧ b.thermal.signed16 = true ∧ b.aging.unsigned16 = true ∧ ValidTrims b.trims := by
  simp [Bank.valid, ValidTrims, and_assoc]

theorem groupBytes_matrix (b : Bank) : groupBytes b .matrix = b.matrix.r.intBytes ++ (b.matrix.g.intBytes ++ b.matrix.b.intBytes) := by
  simp [groupBytes, Prim.toList, Prim.intBytes]

theorem groupBytes_thermal (b : Bank) : groupBytes b .thermal = beInt 2 b.thetaRef ++ b.thermal.intBytes := rfl

theorem matrixOf_eq (bytes : List Byte) : matrixOf bytes = ⟨intsAt bytes 0, intsAt bytes 6, intsAt bytes 12⟩ := rfl

/-- A matrix is read back from its bytes. -/
theorem matrixOf_groupBytes {more : List Byte} {b : Bank} (h : b.valid = true) : matrixOf (groupBytes b .matrix ++ more) = b.matrix := by
  obtain ⟨signedR, signedG, signedB, -⟩ := Bank.valid_iff.1 h
  rw [groupBytes_matrix, matrixOf_eq, List.append_assoc, List.append_assoc]
  have atG : intsAt (b.matrix.r.intBytes ++ (b.matrix.g.intBytes ++ (b.matrix.b.intBytes ++ more))) 6 = b.matrix.g := by
    rw [intsAt_append_right (by simp), Prim.intBytes_length, Nat.sub_self, intsAt_intBytes signedG]
  have atB : intsAt (b.matrix.r.intBytes ++ (b.matrix.g.intBytes ++ (b.matrix.b.intBytes ++ more))) 12 = b.matrix.b := by
    rw [intsAt_append_right (by simp), intsAt_append_right (by simp)]
    simp only [Prim.intBytes_length, Nat.reduceSub, Nat.sub_self, intsAt_intBytes signedB]
  rw [intsAt_intBytes signedR, atG, atB]

/-- The bytes of a group of a valid bank show no fault (R111). -/
theorem groupFault_groupBytes {offset : Nat} {b : Bank} {g : Group} (h : b.valid = true) : groupFault g offset (groupBytes b g) = none := by
  obtain ⟨-, -, -, -, theta, -, -, count, valids, edges⟩ := Bank.valid_iff.1 h
  cases g with
  | matrix => simp [groupFault, groupLengthOk, groupBytes_matrix]
  | gains => simp [groupFault, groupLengthOk, groupBytes, Prim.toList]
  | thermal =>
    have atTheta : intAt (groupBytes b .thermal) 0 = b.thetaRef := intAt_beInt (by have := thetaOut_eq_false.1 theta; omega)
    have len : (groupBytes b .thermal).length = 8 := by simp [groupBytes_thermal]
    simp [groupFault, groupLengthOk, atTheta, theta, len]
  | aging => simp [groupFault, groupLengthOk, groupBytes, Prim.toList]
  | trims =>
    have len : groupLengthOk .trims (groupBytes b .trims).length = true := by
      simp only [groupLengthOk, groupBytes, trimBytes_flatMap_length, Bool.and_eq_true, beq_iff_eq, decide_eq_true_eq]
      omega
    simp only [groupFault, len, Bool.not_true, Bool.false_eq_true, if_false]
    exact trimFault_flatMap valids edges (by simp)

/-- Bytes that show no fault are a valid bank's (R111). -/
theorem exists_groupBytes {offset : Nat} {g : Group} (h : groupFault g offset bytes = none) : ∃ b, Bank.valid b = true ∧ bytes = groupBytes b g := by
  have unity : (unityBank 0).valid = true := by decide
  obtain ⟨r0, g0, b0, gains0, theta0, thermal0, aging0, trims0⟩ := Bank.valid_iff.1 unity
  have len : groupLengthOk g bytes.length = true := by
    by_contra bad
    unfold groupFault at h
    rw [if_pos (by simpa using bad)] at h
    cases h
  simp only [groupFault, len, Bool.not_true, Bool.false_eq_true, if_false] at h
  cases g with
  | matrix =>
    have len : bytes.length = 18 := by simpa [groupLengthOk] using len
    refine ⟨{ unityBank 0 with matrix := matrixOf bytes }, Bank.valid_iff.2
      ⟨signed16_intsAt, signed16_intsAt, signed16_intsAt, gains0, theta0, thermal0, aging0, trims0⟩, ?_⟩
    rw [groupBytes_matrix]
    simp only [matrixOf_eq, intBytes_intsAt (show 0 + 6 ≤ bytes.length by omega), intBytes_intsAt (show 6 + 6 ≤ bytes.length by omega),
      intBytes_intsAt (show 12 + 6 ≤ bytes.length by omega)]
    rw [show field bytes 12 6 = field bytes (6 + 6) 6 from rfl, field_append_field,
      show field bytes 6 (6 + 6) = field bytes (0 + 6) 12 from rfl, field_append_field, field_all len]
  | gains =>
    have len : bytes.length = 6 := by simpa [groupLengthOk] using len
    refine ⟨{ unityBank 0 with gains := natsAt bytes 0 }, Bank.valid_iff.2
      ⟨r0, g0, b0, unsigned16_natsAt, theta0, thermal0, aging0, trims0⟩, ?_⟩
    exact ((natBytes_natsAt (by omega)).trans (field_all len)).symm
  | thermal =>
    have len : bytes.length = 8 := by simpa [groupLengthOk] using len
    have theta : thetaOut (intAt bytes 0) = false := by
      by_contra out
      simp [out] at h
    refine ⟨{ unityBank 0 with thetaRef := intAt bytes 0, thermal := intsAt bytes 2 }, Bank.valid_iff.2
      ⟨r0, g0, b0, gains0, theta, signed16_intsAt, aging0, trims0⟩, ?_⟩
    rw [groupBytes_thermal, beInt_intAt (by omega), intBytes_intsAt (by omega), show field bytes 2 6 = field bytes (0 + 2) 6 from rfl,
      field_append_field, field_all len]
  | aging =>
    have len : bytes.length = 6 := by simpa [groupLengthOk] using len
    refine ⟨{ unityBank 0 with aging := natsAt bytes 0 }, Bank.valid_iff.2
      ⟨r0, g0, b0, gains0, theta0, thermal0, unsigned16_natsAt, trims0⟩, ?_⟩
    exact ((natBytes_natsAt (by omega)).trans (field_all len)).symm
  | trims =>
    simp only [groupLengthOk, Bool.and_eq_true, beq_iff_eq, decide_eq_true_eq] at len
    obtain ⟨trims, image, count, valids, edges, -⟩ := exists_trims (n := bytes.length / 4) h (by omega)
    have few : trims.length ≤ 4 := by omega
    exact ⟨{ unityBank 0 with trims := trims }, Bank.valid_iff.2
      ⟨r0, g0, b0, gains0, theta0, thermal0, aging0, few, valids, edges⟩, image⟩

/-- The bytes of a group of a valid bank put that group into a bank (R111). -/
theorem Bank.withGroup_groupBytes {b : Bank} {g : Group} {values : Bank} (h : values.valid = true) : b.withGroup g (groupBytes values g) = b.copyGroup values g := by
  obtain ⟨-, -, -, gains, theta, thermal, aging, count, valids, -⟩ := Bank.valid_iff.1 h
  cases g with
  | matrix =>
    have read := matrixOf_groupBytes (more := []) h
    rw [List.append_nil] at read
    simp only [Bank.withGroup, Bank.copyGroup, read]
  | gains =>
    have read : natsAt (groupBytes values .gains) 0 = values.gains := by
      rw [← List.append_nil (groupBytes values .gains)]
      exact natsAt_natBytes gains
    simp only [Bank.withGroup, Bank.copyGroup, read]
  | thermal =>
    have atTheta : intAt (groupBytes values .thermal) 0 = values.thetaRef :=
      intAt_beInt (by have := thetaOut_eq_false.1 theta; omega)
    have read : intsAt (groupBytes values .thermal) 2 = values.thermal := by
      rw [groupBytes_thermal, intsAt_append_right (by simp), ← List.append_nil values.thermal.intBytes]
      exact intsAt_intBytes thermal
    simp only [Bank.withGroup, Bank.copyGroup, atTheta, read]
  | aging =>
    have read : natsAt (groupBytes values .aging) 0 = values.aging := by
      rw [← List.append_nil (groupBytes values .aging)]
      exact natsAt_natBytes aging
    simp only [Bank.withGroup, Bank.copyGroup, read]
  | trims => simp only [Bank.withGroup, Bank.copyGroup, groupBytes, trimsOf_flatMap valids, List.take_of_length_le count]

/-! ### Images -/

/-- A bank image, field by field (R188). -/
theorem bankImage_eq (b : Bank) : bankImage b = groupBytes b .matrix ++ (b.gains.natBytes ++ (beInt 2 b.thetaRef ++ (b.thermal.intBytes ++
    (b.aging.natBytes ++ (byteOf b.trims.length ++ b.trims.flatMap trimBytes))))) := by
  simp [bankImage, groupBytes, Prim.natBytes, Prim.intBytes]

@[simp] theorem groupBytes_matrix_length (b : Bank) : (groupBytes b .matrix).length = 18 := by simp [groupBytes_matrix]

theorem bankImage_length (b : Bank) : (bankImage b).length = 39 + 4 * b.trims.length := by
  simp only [bankImage_eq, List.length_append, groupBytes_matrix_length, Prim.natBytes_length, Prim.intBytes_length, beInt_length,
    byteOf_length, trimBytes_flatMap_length]
  omega

theorem intAt_bankImage {b : Bank} (h : b.valid = true) : intAt (bankImage b) 24 = b.thetaRef := by
  obtain ⟨-, -, -, -, theta, -⟩ := Bank.valid_iff.1 h
  rw [bankImage_eq, intAt_append_right (by simp), intAt_append_right (by simp)]
  simp only [groupBytes_matrix_length, Prim.natBytes_length, Nat.reduceSub, Nat.sub_self]
  exact intAt_beInt (by have := thetaOut_eq_false.1 theta; omega)

theorem drop_bankImage (b : Bank) : (bankImage b).drop 39 = b.trims.flatMap trimBytes := by
  have front : bankImage b = (groupBytes b .matrix ++ groupBytes b .gains ++ groupBytes b .thermal ++ groupBytes b .aging ++
    byteOf b.trims.length) ++ b.trims.flatMap trimBytes := rfl
  rw [front, List.drop_left']
  simp [groupBytes, Prim.toList]

theorem natAt_bankImage {b : Bank} (h : b.valid = true) : natAt (bankImage b) 38 1 = b.trims.length := by
  obtain ⟨-, -, -, -, -, -, -, count, -⟩ := Bank.valid_iff.1 h
  rw [bankImage_eq, natAt_append_right (by simp), natAt_append_right (by simp), natAt_append_right (by simp), natAt_append_right (by simp),
    natAt_append_right (by simp)]
  simp only [groupBytes_matrix_length, Prim.natBytes_length, Prim.intBytes_length, beInt_length, Nat.reduceSub, Nat.sub_self]
  exact natAt_byteOf (by omega) _

/-- A valid bank is read back from its image (R188). -/
theorem bankOf_bankImage {b : Bank} (h : b.valid = true) : bankOf (bankImage b) = b := by
  obtain ⟨-, -, -, gains, -, thermal, aging, -, valids, -⟩ := Bank.valid_iff.1 h
  have atMatrix : matrixOf (bankImage b) = b.matrix := by rw [bankImage_eq, matrixOf_groupBytes h]
  have atGains : natsAt (bankImage b) 18 = b.gains := by
    rw [bankImage_eq, natsAt_append_right (by simp)]
    simp only [groupBytes_matrix_length, Nat.sub_self, natsAt_natBytes gains]
  have atThermal : intsAt (bankImage b) 26 = b.thermal := by
    rw [bankImage_eq, intsAt_append_right (by simp), intsAt_append_right (by simp), intsAt_append_right (by simp)]
    simp only [groupBytes_matrix_length, Prim.natBytes_length, beInt_length, Nat.reduceSub, Nat.sub_self, intsAt_intBytes thermal]
  have atAging : natsAt (bankImage b) 32 = b.aging := by
    rw [bankImage_eq, natsAt_append_right (by simp), natsAt_append_right (by simp), natsAt_append_right (by simp),
      natsAt_append_right (by simp)]
    simp only [groupBytes_matrix_length, Prim.natBytes_length, Prim.intBytes_length, beInt_length, Nat.reduceSub, Nat.sub_self,
      natsAt_natBytes aging]
  rw [bankOf, atMatrix, atGains, intAt_bankImage h, atThermal, atAging, drop_bankImage, trimsOf_flatMap valids]

/-- A valid bank's image shows no fault (R7). -/
theorem bankFault_bankImage {offset : Nat} {b : Bank} (h : b.valid = true) : bankFault offset (bankImage b) = none := by
  obtain ⟨-, -, -, -, theta, -, -, count, valids, edges⟩ := Bank.valid_iff.1 h
  rw [bankFault, intAt_bankImage h, theta, natAt_bankImage h, bankImage_length, drop_bankImage,
    trimFault_flatMap valids edges (by simp)]
  simp [Nat.not_lt.2 count]

/-- Bytes that show no fault are a valid bank's image (R7, R188). -/
theorem exists_bankImage {offset : Nat} (h : bankFault offset bytes = none) : ∃ b, Bank.valid b = true ∧ bytes = bankImage b := by
  unfold bankFault at h
  split_ifs at h with theta count len
  simp only [not_not] at len
  obtain ⟨trims, image, number, valids, edges, -⟩ := exists_trims (n := natAt bytes 38 1) h (by simp; omega)
  have few : trims.length ≤ 4 := by omega
  have thetaIn : thetaOut (intAt bytes 24) = false := by simpa using theta
  refine ⟨{ bankOf bytes with trims := trims }, Bank.valid_iff.2 ⟨signed16_intsAt, signed16_intsAt, signed16_intsAt, unsigned16_natsAt,
    thetaIn, signed16_intsAt, unsigned16_natsAt, few, valids, edges⟩, ?_⟩
  rw [bankImage_eq, groupBytes_matrix]
  simp only [bankOf, matrixOf_eq, number, ← image, List.append_assoc, byteOf_natAt (show 38 + 1 ≤ bytes.length by omega),
    intBytes_intsAt (show 0 + 6 ≤ bytes.length by omega), intBytes_intsAt (show 6 + 6 ≤ bytes.length by omega),
    intBytes_intsAt (show 12 + 6 ≤ bytes.length by omega), natBytes_natsAt (show 18 + 6 ≤ bytes.length by omega),
    beInt_intAt (show 24 + 2 ≤ bytes.length by omega), intBytes_intsAt (show 26 + 6 ≤ bytes.length by omega),
    natBytes_natsAt (show 32 + 6 ≤ bytes.length by omega)]
  rw [field_append_drop (k := 38) rfl, field_append_drop (k := 32) rfl, field_append_drop (k := 26) rfl, field_append_drop (k := 24) rfl,
    field_append_drop (k := 18) rfl, field_append_drop (k := 12) rfl, field_append_drop (k := 6) rfl, field_append_drop (k := 0) rfl,
    List.drop_zero]

/-- Settles O54. -/
theorem bankImageRoundTrip : Obligations.BankImageRoundTrip := by
  refine ⟨fun b valid => ⟨bankOf_bankImage valid, fun _ => bankFault_bankImage valid, bankImage_length b⟩, fun _ _ => exists_bankImage,
    fun g offset bytes => ⟨exists_groupBytes, ?group⟩, fun offset bytes => ?image, fun offset n bytes len => ⟨fun good => ?trims, ?trim⟩⟩
  case group =>
    rintro ⟨b, valid, rfl⟩
    exact groupFault_groupBytes valid
  case image => simp only [bankFault, thetaOut, decide_eq_true_eq, lengthFault]
  case trims =>
    rw [trimFault_of_good (k := n) good (by omega), List.drop_of_length_le (by omega), trimFault]
    nofun
  case trim => exact fun k hk good => trimFault_at good (by omega)

end Sys2Proof.Machine
end

section
/-! PROOF. The commands on slots and edits: the checks of the slot and of the hold, and what WRITE_BANK, RELEASE_EDIT and the group commands
leave (R18, R108, R109 to R111, R113 to R115, R118 to R121). -/
namespace Sys2Proof.Machine

-- One declaration after another: as one text the file has more of them than it may have threads.
set_option Elab.async false

variable {s : State} {p : Port} {n : Nat} {payload more : List Byte} {c : Instr} {code : Nat}

/-! ### The commands as the executor runs them -/

section
variable (s : State)

theorem exec_readRecord : exec .readRecord s = .next (Cx.command 0x12 false (· == 2) Rt.readBody s) := rfl
theorem exec_retireRecord : exec .retireRecord s = .next (Cx.command 0x14 false (· == 2) Rt.retireBody s) := rfl
theorem exec_readDrift : exec .readDrift s = .next (Cx.command 0x15 false (· == 2) Dt.readBody s) := rfl
theorem exec_openEdit : exec .openEdit s = .next (Cx.command 0x30 false (· == 2) Cu.openBody s) := rfl
theorem exec_writeBank : exec .writeBank s = .next (Cx.command 0x31 false (fun n => decide (3 ≤ n)) Cu.writeBody s) := rfl
theorem exec_readPending : exec .readPending s = .next (Cx.command 0x32 false (· == 2) Cu.readBody s) := rfl
theorem exec_releaseEdit : exec .releaseEdit s = .next (Cx.command 0x33 false (· == 2) Cu.releaseBody s) := rfl
theorem exec_commitRecord : exec .commitRecord s = .next (Cx.command 0x34 false (· == 4) Cu.commitBody s) := rfl
theorem exec_groupAdd : exec .groupAdd s = .next (Cx.command 0x35 false (· == 4) Cu.groupAddBody s) := rfl
theorem exec_groupRemove : exec .groupRemove s = .next (Cx.command 0x36 false (· == 2) Cu.groupRemoveBody s) := rfl
theorem exec_groupClear : exec .groupClear s = .next (Cx.command 0x37 false (· == 0) Cu.groupClearBody s) := rfl
theorem exec_groupCommit : exec .groupCommit s = .next (Cx.command 0x38 false (· == 0) Cu.groupCommitBody s) := rfl

end

/-! ### The checks of the slot and of the hold (R18, R108) -/

/-- A command whose payload begins with a slot and goes on with `more` makes the check of the slot before all else. -/
structure Cx.ChecksSlot (c : Instr) (code : Nat) (more : List Byte) (body : Port → List Byte → Nat → State → Reply × State) : Prop where
  run : ∀ {s : State} {p : Port} {tag : Byte} {rest : List Message} {n : Nat}, n < 65536 → s.takes p code tag (u16 n ++ more) rest →
    exec c s = .next (Cx.answer p tag (withSlot (u16 n ++ more) (body p (u16 n ++ more)) (s.taken p rest)).1
      (withSlot (u16 n ++ more) (body p (u16 n ++ more)) (s.taken p rest)).2)

/-- A command behind whose check of the slot stands that of the hold. -/
def Cx.ChecksHold (c : Instr) (code : Nat) (more : List Byte) (body : Port → List Byte → Nat → State → Reply × State) : Prop :=
  Cx.ChecksSlot c code more fun p payload slot => withHold p slot (body p payload slot)

section
variable {body : Port → List Byte → Nat → State → Reply × State}

theorem Cx.checksSlot_of_operands {fits : Nat → Bool} {whole : Body} (run : ∀ s, exec c s = .next (Cx.command code false fits whole s))
    (hc : code < 256) (hf : fits (2 + more.length) = true)
    (hb : ∀ p n s, n < 65536 → whole p (u16 n ++ more) s = withSlot (u16 n ++ more) (body p (u16 n ++ more)) s) :
    Cx.ChecksSlot c code more body := by
  refine ⟨fun hn h => ?_⟩
  rw [run, Cx.command_of_takes h hc (by nofun) (by simpa using hf), hb _ _ _ hn]

theorem Cx.checksSlot_of {fits : Nat → Bool} {whole : Body} (run : ∀ s, exec c s = .next (Cx.command code false fits whole s))
    (hc : code < 256) (hf : fits (2 + more.length) = true) (hb : ∀ p payload s, whole p payload s = withSlot payload (body p payload) s) :
    Cx.ChecksSlot c code more body := Cx.checksSlot_of_operands run hc hf fun _ _ _ _ => hb _ _ _

theorem Cx.checksHold_of {fits : Nat → Bool} {whole : Body} (run : ∀ s, exec c s = .next (Cx.command code false fits whole s))
    (hc : code < 256) (hf : fits (2 + more.length) = true)
    (hb : ∀ p payload s, whole p payload s = withSlot payload (fun slot => withHold p slot (body p payload slot)) s) :
    Cx.ChecksHold c code more body := by
  unfold Cx.ChecksHold
  exact Cx.checksSlot_of run hc hf hb

theorem Cx.ChecksSlot.bad {tag : Byte} {rest : List Message} (k : Cx.ChecksSlot c code more body) (hlt : n < 65536) (h : s.takes p code tag (u16 n ++ more) rest)
    (hn : 2047 < n) : exec c s = .next (s.answered p rest tag .badField [0]) := by
  rw [k.run hlt h, withSlot_bad (by rwa [natAt_u16 hlt])]
  exact congrArg _ Cx.answer_taken

theorem Cx.ChecksSlot.free {tag : Byte} {rest : List Message} (k : Cx.ChecksSlot c code more body) (h : s.takes p code tag (u16 n ++ more) rest)
    (hn : n ≤ 2047) (free : (s.record n).inUse = false) : exec c s = .next (s.answered p rest tag .noRecord []) := by
  rw [k.run (by omega) h, withSlot_free (natAt_u16 (by omega) _) hn (by rwa [State.taken_record])]
  exact congrArg _ Cx.answer_taken

theorem Cx.ChecksHold.none {tag : Byte} {rest : List Message} (k : Cx.ChecksHold c code more body) (h : s.takes p code tag (u16 n ++ more) rest)
    (hn : n ≤ 2047) (inUse : (s.record n).inUse = true) (hold : (s.record n).hold = .none) :
    exec c s = .next (s.answered p rest tag .notHeld []) := by
  rw [k.run (by omega) h, withSlot_inUse (natAt_u16 (by omega) _) hn (by rwa [State.taken_record])]
  rw [withHold_none (by rwa [State.taken_record])]
  exact congrArg _ Cx.answer_taken

theorem Cx.ChecksHold.other {tag : Byte} {rest : List Message} (k : Cx.ChecksHold c code more body) (h : s.takes p code tag (u16 n ++ more) rest)
    (hn : n ≤ 2047) (inUse : (s.record n).inUse = true) (held : (s.record n).hold ≠ .none) (hold : (s.record n).hold ≠ p.hold) :
    exec c s = .next (s.answered p rest tag .held [BitVec.ofNat 8 (s.record n).hold.code]) := by
  rw [k.run (by omega) h, withSlot_inUse (natAt_u16 (by omega) _) hn (by rwa [State.taken_record])]
  rw [withHold_other (by rwa [State.taken_record]) (by rwa [State.taken_record]), State.taken_record]
  exact congrArg _ Cx.answer_taken

end

theorem groupOf_code (g : Group) : groupOf g.code = some g := by cases g <;> rfl

theorem Group.code_lt (g : Group) : g.code < 256 := by cases g <;> decide

/-- The group and the values that WRITE_BANK carries (R111). -/
theorem writeOperands {group : Nat} {values : List Byte} (h : group < 256) :
    natAt (u16 n ++ (byteOf group ++ values)) 2 1 = group ∧ (u16 n ++ (byteOf group ++ values)).drop 3 = values := by
  refine ⟨?_, rfl⟩
  rw [natAt_append_right (by simp)]
  exact natAt_byteOf h _

/-- WRITE_BANK of a valid bank's group shows no fault but in its slot (R111). -/
theorem writeFault_groupBytes {values : Bank} (valid : values.valid = true) (g : Group) (hn : n < 65536) :
    writeFault (u16 n ++ (byteOf g.code ++ groupBytes values g)) = if 2047 < n then some 0 else none := by
  obtain ⟨group, behind⟩ := writeOperands (n := n) (values := groupBytes values g) g.code_lt
  simp only [writeFault, natAt_u16 hn, group, groupOf_code, behind, groupFault_groupBytes valid]

/-- WRITE_BANK behind its checks of the operands, of the slot and of the hold. -/
def Cu.writeOwn (g : Group) (p : Port) (payload : List Byte) (slot : Nat) (s : State) : Reply × State :=
  let r := s.record slot
  match r.condition with
  | .frozen => (.bare .frozen, s)
  | .scheduled => (.bare .busy, s)
  | _ =>
    if !s.zonePass p r.seat then (.bare .zone, s)
    else
      let s := (s.writeGroup slot g (payload.drop 3)).modify slot fun r => { r with holdTimer := s.params.holdTimeout }
      let (bank, s) := Cu.readPendingBank slot s
      (.ok (halfBytes (bankCrc bank) ++ flagByte (s.record slot).pendingDamaged), s)

/-- WRITE_BANK of a valid bank's group makes the check of the hold behind that of the slot. -/
theorem writeBank_checksHold {values : Bank} (valid : values.valid = true) (g : Group) :
    Cx.ChecksHold .writeBank 0x31 (byteOf g.code ++ groupBytes values g) (Cu.writeOwn g) := by
  unfold Cx.ChecksHold
  refine Cx.checksSlot_of_operands exec_writeBank (by decide) (decide_eq_true (by simp; omega)) fun p n s hn => ?_
  obtain ⟨group, behind⟩ := writeOperands (n := n) (values := groupBytes values g) g.code_lt
  by_cases high : 2047 < n
  · rw [withSlot_bad (by rwa [natAt_u16 hn])]
    simp only [Cu.writeBody, writeFault_groupBytes valid g hn, if_pos high]
  · simp only [Cu.writeBody, writeFault_groupBytes valid g hn, if_neg high, group, groupOf_code]
    rfl

/-- WRITE_BANK with the operands of a valid bank's group. -/
def Cx.Writes (c : Instr) (code : Nat) (more : List Byte) : Prop :=
  (c, code) = (.writeBank, 0x31) ∧ ∃ g values, Bank.valid values = true ∧ more = byteOf (Group.code g) ++ groupBytes values g

/-- The other commands with the check of the hold, and the length of what follows the slot (R108). -/
def holdCommands : List (Instr × Nat × Nat) :=
  [(Instr.readPending, 0x32, 0), (.releaseEdit, 0x33, 0), (.commitRecord, 0x34, 2), (.groupAdd, 0x35, 2), (.groupRemove, 0x36, 0)]

theorem exists_checksHold (h : Cx.Writes c code more ∨ (c, code, more.length) ∈ holdCommands) : ∃ body, Cx.ChecksHold c code more body := by
  rcases h with ⟨named, g, values, valid, rfl⟩ | h
  · cases named
    exact ⟨_, writeBank_checksHold valid g⟩
  · simp only [holdCommands, List.mem_cons, Prod.mk.injEq, List.not_mem_nil, or_false] at h
    rcases h with ⟨rfl, rfl, len⟩ | ⟨rfl, rfl, len⟩ | ⟨rfl, rfl, len⟩ | ⟨rfl, rfl, len⟩ | ⟨rfl, rfl, len⟩
    · exact ⟨_, Cx.checksHold_of exec_readPending (by decide) (by simp [len]) fun _ _ _ => rfl⟩
    · exact ⟨_, Cx.checksHold_of exec_releaseEdit (by decide) (by simp [len]) fun _ _ _ => rfl⟩
    · exact ⟨_, Cx.checksHold_of exec_commitRecord (by decide) (by simp [len]) fun _ _ _ => rfl⟩
    · exact ⟨_, Cx.checksHold_of exec_groupAdd (by decide) (by simp [len]) fun _ _ _ => rfl⟩
    · exact ⟨_, Cx.checksHold_of exec_groupRemove (by decide) (by simp [len]) fun _ _ _ => rfl⟩

/-- The commands with the check of the slot alone, and the length of what follows the slot (R18). -/
def slotCommands : List (Instr × Nat × Nat) :=
  [(Instr.readRecord, 0x12, 0), (.retireRecord, 0x14, 0), (.readDrift, 0x15, 0), (.openEdit, 0x30, 0)]

theorem exists_checksSlot (h : Cx.Writes c code more ∨ (c, code, more.length) ∈ slotCommands ++ holdCommands) :
    ∃ body, Cx.ChecksSlot c code more body := by
  rcases h with writes | h
  · obtain ⟨_, k⟩ := exists_checksHold (.inl writes)
    exact ⟨_, k⟩
  rcases List.mem_append.1 h with h | h
  · simp only [slotCommands, List.mem_cons, Prod.mk.injEq, List.not_mem_nil, or_false] at h
    rcases h with ⟨rfl, rfl, len⟩ | ⟨rfl, rfl, len⟩ | ⟨rfl, rfl, len⟩ | ⟨rfl, rfl, len⟩
    · exact ⟨_, Cx.checksSlot_of exec_readRecord (by decide) (by simp [len]) fun _ _ _ => rfl⟩
    · exact ⟨_, Cx.checksSlot_of exec_retireRecord (by decide) (by simp [len]) fun _ _ _ => rfl⟩
    · exact ⟨_, Cx.checksSlot_of exec_readDrift (by decide) (by simp [len]) fun _ _ _ => rfl⟩
    · exact ⟨_, Cx.checksSlot_of exec_openEdit (by decide) (by simp [len]) fun _ _ _ => rfl⟩
  · obtain ⟨_, k⟩ := exists_checksHold (.inr h)
    exact ⟨_, k⟩

/-- Settles O17. -/
theorem slotAndHoldRefusalsChangeNothing : Obligations.SlotAndHoldRefusalsChangeNothing := by
  intro s p tag rest c code n more hn h writes
  refine ⟨fun hmem => ?slot, fun hmem hle inUse => ?hold⟩
  case slot =>
    obtain ⟨_, k⟩ := exists_checksSlot hmem
    exact ⟨k.bad hn h, k.free h⟩
  case hold =>
    obtain ⟨_, k⟩ := exists_checksHold hmem
    exact ⟨k.none h hle inUse, k.other h hle inUse⟩

/-! ### A record that the port holds -/

/-- The slot that a payload names holds a record that the port holds. -/
structure State.Owns (s : State) (p : Port) (payload : List Byte) (n : Nat) : Prop where
  slot : natAt payload 0 2 = n
  range : n ≤ 2047
  inUse : (s.record n).inUse = true
  hold : (s.record n).hold = p.hold

theorem State.Owns.taken {rest : List Message} (own : s.Owns p payload n) : (s.taken p rest).Owns p payload n :=
  ⟨own.slot, own.range, by rw [State.taken_record, own.inUse], by rw [State.taken_record, own.hold]⟩

/-- A record that the port holds passes both checks. -/
theorem State.Owns.enter {body : Nat → State → Reply × State} (own : s.Owns p payload n) :
    withSlot payload (fun slot s => withHold p slot (body slot) s) s = body n s := by
  rw [withSlot_inUse own.slot own.range own.inUse, withHold_own own.hold]

/-- What COMMIT_RECORD answers before it reads the bank (R114, R115). -/
theorem Cu.commitBody_refused (own : s.Owns p payload n) :
    ((s.record n).condition = .frozen → Cu.commitBody p payload s = (.bare .frozen, s)) ∧
    ((s.record n).condition = .scheduled → Cu.commitBody p payload s = (.bare .busy, s)) ∧
    ((s.record n).condition = .opened → s.zonePass p (s.record n).seat = false → Cu.commitBody p payload s = (.bare .zone, s)) := by
  rw [Cu.commitBody, own.enter]
  refine ⟨fun frozen => ?_, fun scheduled => ?_, fun opened outside => ?_⟩
  · simp only [frozen]
  · simp only [scheduled]
  · simp only [opened, outside, Bool.not_false, if_true]

/-- What WRITE_BANK answers before it writes (R111, R114). -/
theorem Cu.writeOwn_refused {g : Group} :
    ((s.record n).condition = .frozen → Cu.writeOwn g p payload n s = (.bare .frozen, s)) ∧
    ((s.record n).condition = .scheduled → Cu.writeOwn g p payload n s = (.bare .busy, s)) ∧
    ((s.record n).condition = .opened → s.zonePass p (s.record n).seat = false → Cu.writeOwn g p payload n s = (.bare .zone, s)) := by
  unfold Cu.writeOwn
  refine ⟨fun frozen => ?_, fun scheduled => ?_, fun opened outside => ?_⟩
  · simp only [frozen]
  · simp only [scheduled]
  · simp only [opened, outside, Bool.not_false, if_true]

theorem positionOf_eq_none {l : List Nat} (h : n ∉ l) : positionOf n l = none := by
  cases hp : positionOf n l with
  | none => rfl
  | some k => exact absurd (mem_of_positionOf hp) h

/-- What GROUP_ADD of a slot that is not listed answers before it looks at the list (R114, R118). -/
theorem Cu.groupAddBody_refused (own : s.Owns p payload n) (unlisted : n ∉ (s.port p).commitList) :
    ((s.record n).condition = .scheduled → Cu.groupAddBody p payload s = (.bare .busy, s)) ∧
    ((s.record n).condition = .opened → s.zonePass p (s.record n).seat = false → Cu.groupAddBody p payload s = (.bare .zone, s)) := by
  rw [Cu.groupAddBody, own.enter]
  refine ⟨fun scheduled => ?_, fun opened outside => ?_⟩
  · simp only [positionOf_eq_none unlisted, scheduled, if_true]
  · simp only [positionOf_eq_none unlisted, opened, reduceCtorEq, if_false, outside, Bool.not_false, if_true]

theorem Cu.releaseBody_scheduled (own : s.Owns p payload n) (scheduled : (s.record n).condition = .scheduled) :
    Cu.releaseBody p payload s = (.bare .busy, s) := by
  rw [Cu.releaseBody, own.enter]
  simp only [scheduled, if_true]

theorem Cu.groupRemoveBody_scheduled (own : s.Owns p payload n) (scheduled : (s.record n).condition = .scheduled) :
    Cu.groupRemoveBody p payload s = (.bare .busy, s) := by
  rw [Cu.groupRemoveBody, own.enter]
  simp only [scheduled, if_true]

theorem Cx.ChecksHold.own {t : State} {tag : Byte} {rest : List Message} {body : Port → List Byte → Nat → State → Reply × State} {r : Reply} (k : Cx.ChecksHold c code more body)
    (h : s.takes p code tag (u16 n ++ more) rest) (hn : n ≤ 2047) (inUse : (s.record n).inUse = true) (hold : (s.record n).hold = p.hold)
    (hb : body p (u16 n ++ more) n (s.taken p rest) = (r, t.taken p rest)) : exec c s = .next (t.answered p rest tag r.code r.payload) := by
  have own : State.Owns s p (u16 n ++ more) n := ⟨natAt_u16 (by omega) _, hn, inUse, hold⟩
  rw [k.run (by omega) h, own.taken.enter, hb]
  exact congrArg _ Cx.answer_taken

/-- Settles O31. -/
theorem frozenAndScheduledBanksCannotBeWritten : Obligations.FrozenAndScheduledBanksCannotBeWritten := by
  intro s p tag rest n more c code hn inUse hold h changes lists
  have own : s.Owns p (u16 n ++ more) n := ⟨natAt_u16 (by omega) _, hn, inUse, hold⟩
  have zone : ∀ {seat}, (s.record n).seat = some seat → s.outsideZones p seat → s.zonePass p (s.record n).seat = false :=
    fun seated outside => by rw [seated, State.zonePass_eq_false.2 outside]
  -- A command of either kind that refuses before it changes anything.
  have commits : ∀ {r : Reply}, (c, code, more.length) = (.commitRecord, 0x34, 2) →
      Cu.commitBody p (u16 n ++ more) (s.taken p rest) = (r, s.taken p rest) → exec c s = .next (s.answered p rest tag r.code r.payload) :=
    fun named body => by
      simp only [Prod.mk.injEq] at named
      obtain ⟨rfl, rfl, len⟩ := named
      exact congrArg Host.Outcome.next (Cx.command_leaves h (by decide) (by nofun) (by simp [len]) body)
  have writes : ∀ {r : Reply}, (c, code) = (.writeBank, 0x31) ∧
      (∃ g values, Bank.valid values = true ∧ more = byteOf (Group.code g) ++ groupBytes values g) →
      (∀ g, Cu.writeOwn g p (u16 n ++ more) n (s.taken p rest) = (r, s.taken p rest)) →
      exec c s = .next (s.answered p rest tag r.code r.payload) := by
    rintro r ⟨named, g, values, valid, rfl⟩ body
    cases named
    exact (writeBank_checksHold valid g).own h hn inUse hold (body g)
  have adds : ∀ {r : Reply}, (c, code, more.length) = (.groupAdd, 0x35, 2) →
      Cu.groupAddBody p (u16 n ++ more) (s.taken p rest) = (r, s.taken p rest) → exec c s = .next (s.answered p rest tag r.code r.payload) :=
    fun named body => by
      simp only [Prod.mk.injEq] at named
      obtain ⟨rfl, rfl, len⟩ := named
      exact congrArg Host.Outcome.next (Cx.command_leaves h (by decide) (by nofun) (by simp [len]) body)
  have commit := Cu.commitBody_refused (own.taken (rest := rest))
  have write := fun g => Cu.writeOwn_refused (s := s.taken p rest) (p := p) (payload := u16 n ++ more) (n := n) (g := g)
  have add := fun unlisted => Cu.groupAddBody_refused (own.taken (rest := rest)) unlisted
  simp only [State.taken_record, State.taken_zonePass, State.taken_commitList] at commit write add
  refine ⟨fun change frozen => ?frozen, fun change scheduled => ?scheduled, fun seat change opened seated outside => ?zone⟩
  case frozen =>
    rcases change with named | named
    · exact commits named (commit.1 frozen)
    · exact writes named fun g => (write g).1 frozen
  case scheduled =>
    rcases change with (named | named) | ⟨named, unlisted⟩ | named | named
    · exact commits named (commit.2.1 scheduled)
    · exact writes named fun g => (write g).2.1 scheduled
    · exact adds named ((add unlisted).1 scheduled)
    · cases named
      exact congrArg Host.Outcome.next (Cx.command_leaves h (by decide) (by nofun) (by simp)
        (Cu.releaseBody_scheduled own.taken (by rwa [State.taken_record])))
    · cases named
      exact congrArg Host.Outcome.next (Cx.command_leaves h (by decide) (by nofun) (by simp)
        (Cu.groupRemoveBody_scheduled own.taken (by rwa [State.taken_record])))
  case zone =>
    rcases change with (named | named) | ⟨named, unlisted⟩
    · exact commits named (commit.2.2 opened (zone seated outside))
    · exact writes named fun g => (write g).2.2 opened (zone seated outside)
    · exact adds named ((add unlisted).2 opened (zone seated outside))

end Sys2Proof.Machine
end

section
/-! PROOF. Equal contents of tables are equal data, and so changes of one record in one go or in several are one. -/
namespace Sys2Proof.Machine

-- One declaration after another: as one text the file has more of them than it may have threads.
set_option Elab.async false

/-! ### Tables -/

section
variable {α : Type} [DecidableEq α] {d v w : α} {t u : Table α} {n : Nat}

/-- Canonical tables with equal contents are equal. -/
theorem Table.ext (ht : Table.wf d t) (hu : Table.wf d u) (h : ∀ n, Table.get d t n = Table.get d u n) : t = u := by
  induction t generalizing u with
  | nil =>
    match u, hu with
    | [], _ => rfl
    | (k, w) :: u, hu =>
      have := h k
      rw [Table.get_nil, Table.get, if_pos rfl] at this
      exact absurd this.symm (Table.wf_cons.1 hu).2.1
  | cons e t ih =>
    obtain ⟨k, v⟩ := e
    obtain ⟨belowT, hv, wfT⟩ := Table.wf_cons.1 ht
    match u, hu with
    | [], _ =>
      have := h k
      rw [Table.get_nil, Table.get, if_pos rfl] at this
      exact absurd this hv
    | (m, w) :: u, hu =>
      obtain ⟨belowU, hw, wfU⟩ := Table.wf_cons.1 hu
      have hkm : k = m := by
        rcases Nat.lt_trichotomy k m with lt | eq | gt
        · have := h k
          rw [Table.get, if_pos rfl, Table.get_of_below (List.forall_mem_cons.2 ⟨lt, fun e he => lt.trans (belowU e he)⟩)] at this
          exact absurd this hv
        · exact eq
        · have := h m
          rw [Table.get_of_below (List.forall_mem_cons.2 ⟨gt, fun e he => gt.trans (belowT e he)⟩), Table.get, if_pos rfl] at this
          exact absurd this.symm hw
      subst hkm
      have hvw : v = w := by
        have := h k
        rwa [Table.get, if_pos rfl, Table.get, if_pos rfl] at this
      have tails : t = u := ih wfT wfU fun n => by
        by_cases hn : k = n
        · subst hn
          rw [Table.get_of_below belowT, Table.get_of_below belowU]
        · have := h n
          rwa [Table.get, if_neg hn, Table.get, if_neg hn] at this
      rw [hvw, tails]

/-- A write over a write at one key is the second write. -/
theorem Table.set_set (ht : Table.wf d t) : Table.set d n w (Table.set d n v t) = Table.set d n w t := by
  refine Table.ext (Table.wf_set (Table.wf_set ht)) (Table.wf_set ht) fun m => ?_
  by_cases hm : m = n
  · subst hm
    rw [Table.get_set_same (Table.wf_set ht), Table.get_set_same ht]
  · rw [Table.get_set_ne hm, Table.get_set_ne hm, Table.get_set_ne hm]

/-- A write of what stands there changes nothing. -/
theorem Table.set_get (ht : Table.wf d t) : Table.set d n (Table.get d t n) t = t := by
  refine Table.ext (Table.wf_set ht) ht fun m => ?_
  by_cases hm : m = n
  · subst hm
    rw [Table.get_set_same ht]
  · rw [Table.get_set_ne hm]

end

/-! ### Records -/

section
variable {s t : State} {st : Store} {n k : Nat} {f g : Record → Record} {slots : List Nat}

theorem Store.put_put {r r' : Record} (w : Table.wf Record.blank st.records) : (st.put n r).put n r' = st.put n r' := by
  simp only [Store.put, Table.set_set w]

/-- Two changes of one record are one. -/
theorem Store.modify_modify (w : Table.wf Record.blank st.records) : (st.modify n f).modify n g = st.modify n fun r => g (f r) := by
  rw [Store.modify, Store.get_modify_same w, Store.modify, Store.put_put w, Store.modify]

theorem State.modify_modify (w : Table.wf Record.blank s.store.records) : (s.modify n f).modify n g = s.modify n fun r => g (f r) := by
  simp only [State.modify, Store.modify_modify w]

/-- A change that gives the record in the slot what another gives it is the other. -/
theorem Store.modify_congr (h : f (st.get n) = g (st.get n)) : st.modify n f = st.modify n g := by
  rw [Store.modify, h, Store.modify]

theorem State.modify_congr (h : f (s.record n) = g (s.record n)) : s.modify n f = s.modify n g := by
  simp only [State.modify, Store.modify_congr (st := s.store) h]

/-- The record in a slot after a change of it, and the others. -/
theorem State.record_modify (w : Table.wf Record.blank s.store.records) :
    (s.modify n f).record k = if k = n then f (s.record k) else s.record k := by
  split
  · rename_i h
    subst h
    exact State.record_modify_same s w
  · exact State.record_modify_ne s ‹_›

/-- Everything a change of several records alike does, however often a slot is named, where the change done twice is the change. -/
theorem State.modifyAll_records_of_idem (w : Table.wf Record.blank s.store.records) (idem : ∀ r, f (f r) = f r) :
    Table.wf Record.blank (s.modifyAll f slots).store.records ∧
      ∀ k, (s.modifyAll f slots).record k = if k ∈ slots then f (s.record k) else s.record k := by
  induction slots generalizing s with
  | nil => exact ⟨w, fun _ => rfl⟩
  | cons n slots ih =>
    obtain ⟨wf, record⟩ := ih (s := s.modify n f) (Store.modify_records_wf w)
    refine ⟨wf, fun k => (record k).trans ?_⟩
    rw [State.record_modify w]
    by_cases hk : k = n <;> by_cases hm : k ∈ slots <;> simp [hk, hm, idem]

end

end Sys2Proof.Machine
end

section
/-! PROOF. What the edit commands leave in a store without errors: OPEN_EDIT, WRITE_BANK, RELEASE_EDIT and the group commands
(R105, R109 to R111, R113, R118 to R121). -/
namespace Sys2Proof.Machine

-- One declaration after another: as one text the file has more of them than it may have threads.
set_option Elab.async false

variable {s : State} {p : Port} {rest : List Message} {n : Nat}

/-! ### A message taken beside work on the state -/

theorem State.modify_taken {f : Record → Record} : (s.taken p rest).modify n f = (s.modify n f).taken p rest := by cases p <;> rfl

theorem Cu.discard_taken : Cu.discard n (s.taken p rest) = (Cu.discard n s).taken p rest := by cases p <;> rfl

theorem State.taken_modifyAll {f : Record → Record} {slots : List Nat} :
    (s.taken p rest).modifyAll f slots = (s.modifyAll f slots).taken p rest := by
  induction slots generalizing s with
  | nil => rfl
  | cons n slots ih =>
    rw [State.modifyAll, List.foldl_cons, State.modify_taken]
    exact ih

/-- A change of what the Commit Unit keeps for a port, beside a message taken from it. -/
theorem State.onPort_taken {f : PortState → PortState} (hf : ∀ x, f { x with messages := rest } = { f x with messages := rest }) :
    (s.taken p rest).onPort p f = (s.onPort p f).taken p rest := by
  cases p <;> simp [State.taken, State.onPort, hf]

/-! ### Writes of the pending bank -/

theorem Record.setBank_setBank (r : Record) (ix : BankIx) (a b : Bank) : (r.setBank ix a).setBank ix b = r.setBank ix b := by cases ix <;> rfl

@[simp] theorem Record.setBank_active (r : Record) (ix : BankIx) (b : Bank) : (r.setBank ix b).active = r.active := by cases ix <;> rfl

@[simp] theorem Record.pendingIx_setBank (r : Record) (ix : BankIx) (b : Bank) : (r.setBank ix b).pendingIx = r.pendingIx := by cases ix <;> rfl

@[simp] theorem Record.bankAt_setBank (r : Record) (ix : BankIx) (b : Bank) : (r.setBank ix b).bankAt ix = b := by cases ix <;> rfl

theorem State.fillPending_clean (clean : s.clean) (bank : Bank) :
    s.fillPending n bank = s.modify n fun r => r.setBank r.pendingIx bank := by
  simp only [State.fillPending, State.modify]
  rw [Store.mend_clean (show (Store.modify n _ s.store).damage = [] from clean)]

theorem State.writeGroup_clean (clean : s.clean) (g : Group) (bytes : List Byte) :
    s.writeGroup n g bytes = s.modify n fun r => r.setBank r.pendingIx (r.pendingBank.withGroup g bytes) := by
  simp only [State.writeGroup, State.modify]
  rw [Store.mend_clean (show (Store.modify n _ s.store).damage = [] from clean)]

/-- What WRITE_BANK of a valid bank's group leaves in an OPEN pending bank (R111). -/
theorem Cu.writeOwn_clean {g : Group} {values : Bank} (canonical : s.canonical) (clean : s.clean) (valid : values.valid = true)
    (opened : (s.record n).condition = .opened) (zone : s.zonePass p (s.record n).seat = true) :
    let bank := (s.record n).pendingBank.copyGroup values g
    Cu.writeOwn g p (u16 n ++ (byteOf g.code ++ groupBytes values g)) n s =
      (.ok (halfBytes (bankCrc bank) ++ flagByte (s.record n).pendingDamaged),
        s.modify n fun r => { r.setBank r.pendingIx bank with holdTimer := s.params.holdTimeout }) := by
  intro bank
  have wf := canonical.1
  have written : (s.writeGroup n g (groupBytes values g)).modify n (fun r => { r with holdTimer := s.params.holdTimeout }) =
      s.modify n fun r => { r.setBank r.pendingIx bank with holdTimer := s.params.holdTimeout } := by
    rw [State.writeGroup_clean clean, State.modify_modify wf]
    exact State.modify_congr (by simp only [Bank.withGroup_groupBytes valid, bank])
  have read : ((s.modify n fun r => { r.setBank r.pendingIx bank with holdTimer := s.params.holdTimeout }).record n) =
      { (s.record n).setBank (s.record n).pendingIx bank with holdTimer := s.params.holdTimeout } := State.record_modify_same s wf
  have cleanAfter : (s.modify n fun r => { r.setBank r.pendingIx bank with holdTimer := s.params.holdTimeout }).clean := clean
  have behind : (u16 n ++ (byteOf g.code ++ groupBytes values g)).drop 3 = groupBytes values g := rfl
  unfold Cu.writeOwn
  simp only [opened, zone, Bool.not_true, Bool.false_eq_true, if_false, behind]
  simp only [written, Cu.readPendingBank_clean cleanAfter, read]
  have pending : Record.pendingBank { (s.record n).setBank (s.record n).pendingIx bank with holdTimer := s.params.holdTimeout } = bank := by
    show ((s.record n).setBank (s.record n).pendingIx bank).pendingBank = bank
    rw [Record.pendingBank, Record.pendingIx_setBank, Record.bankAt_setBank]
  have damaged : ((s.record n).setBank (s.record n).pendingIx bank).pendingDamaged = (s.record n).pendingDamaged := by
    cases (s.record n).pendingIx <;> rfl
  rw [pending, damaged]

/-! ### WRITE_BANK refused (R111) -/

theorem groupOf_eq_none (h : 4 < n) : groupOf n = none := by
  unfold groupOf
  split <;> first | rfl | omega

/-- Operands at fault are refused before any other check. -/
theorem exec_writeBank_of_fault {tag : Byte} {payload : List Byte} {field : Nat} (h : s.takes p 0x31 tag payload rest) (hlen : 3 ≤ payload.length) (hf : writeFault payload = some field) :
    exec .writeBank s = .next (s.answered p rest tag .badField (byteOf field)) := by
  refine congrArg Host.Outcome.next (Cx.command_leaves (r := .badField field) h (by decide) (by nofun) (by simpa using hlen) ?_)
  simp only [Cu.writeBody, hf]

/-- Bytes that are no valid bank's are at fault, at the length or at the first value (R111). -/
theorem groupFault_of_invalid {g : Group} {values : List Byte} (invalid : ∀ bank, Bank.valid bank = true → values ≠ groupBytes bank g) :
    ∃ field, groupFault g 3 values = some field ∧ (g = .matrix ∨ g = .gains ∨ g = .aging → field = 0xFF) ∧
      (g = .thermal → field = if values.length = 8 then 3 else 0xFF) ∧
      (g = .trims → if values.length ∈ [0, 4, 8, 12, 16] then trimFault [] 3 values = some field else field = 0xFF) := by
  cases hf : groupFault g 3 values with
  | none =>
    obtain ⟨bank, valid, image⟩ := exists_groupBytes hf
    exact absurd image (invalid bank valid)
  | some field =>
    refine ⟨field, rfl, ?_⟩
    unfold groupFault at hf
    by_cases length : groupLengthOk g values.length = true
    · rw [length, if_neg (by simp)] at hf
      cases g with
      | matrix | gains | aging => cases hf
      | thermal =>
        have len : values.length = 8 := by simpa [groupLengthOk] using length
        dsimp only at hf
        split_ifs at hf
        cases hf
        exact ⟨by simp, fun _ => (if_pos len).symm, nofun⟩
      | trims =>
        have len : values.length ∈ [0, 4, 8, 12, 16] := by
          simp only [groupLengthOk, Bool.and_eq_true, beq_iff_eq, decide_eq_true_eq] at length
          simp only [List.mem_cons, List.not_mem_nil, or_false]
          omega
        exact ⟨by simp, nofun, fun _ => by rwa [if_pos len]⟩
    · rw [if_pos (by simpa using length)] at hf
      obtain rfl : 0xFF = field := Option.some.inj hf
      refine ⟨fun _ => rfl, ?_, ?_⟩
      · rintro rfl
        have len : values.length ≠ 8 := by simpa [groupLengthOk] using length
        rw [if_neg len]
      · rintro rfl
        have len : values.length ∉ [0, 4, 8, 12, 16] := by
          simp only [groupLengthOk, Bool.and_eq_true, beq_iff_eq, decide_eq_true_eq] at length
          simp only [List.mem_cons, List.not_mem_nil, or_false]
          omega
        rw [if_neg len]

/-- Settles O30. -/
theorem writeBankReplacesOneGroup : Obligations.WriteBankReplacesOneGroup := by
  refine ⟨fun s p tag rest n g values canonical clean hn valid h inUse hold opened zone => ?written,
    fun s p tag rest n group values hn hgroup h => ?refused⟩
  case written =>
    intro bank
    rw [List.append_assoc] at h
    have canonicalTaken : (s.taken p rest).canonical := by cases p <;> exact canonical
    have out := Cu.writeOwn_clean (g := g) canonicalTaken (State.taken_clean.2 clean) valid (n := n) (p := p)
      (by rwa [State.taken_record]) (by rwa [State.taken_record, State.taken_zonePass])
    refine (writeBank_checksHold valid g).own (r := .ok (halfBytes (bankCrc bank) ++ flagByte (s.record n).pendingDamaged))
      (t := s.modify n fun r => { r.setBank r.pendingIx bank with holdTimer := s.params.holdTimeout }) h hn inUse hold (out.trans ?_)
    rw [State.modify_taken, State.taken_record, State.taken_params]
  case refused =>
    rw [List.append_assoc] at h
    obtain ⟨atGroup, behind⟩ := writeOperands (n := n) (values := values) hgroup
    have len : 3 ≤ (u16 n ++ (byteOf group ++ values)).length := by simp; omega
    have fault : ∀ {field}, writeFault (u16 n ++ (byteOf group ++ values)) = some field →
        exec .writeBank s = .next (s.answered p rest tag .badField (byteOf field)) := exec_writeBank_of_fault h len
    refine ⟨fun high => fault ?_, fun low other => fault ?_, fun g low code invalid => ?_⟩
    · simp only [writeFault, natAt_u16 hn, if_pos high]
    · simp only [writeFault, natAt_u16 hn, if_neg (Nat.not_lt.2 low), atGroup, groupOf_eq_none other]
    · subst code
      obtain ⟨field, hf, lengths, thermal, trims⟩ := groupFault_of_invalid invalid
      have refused := fault (field := field) (by
        simp only [writeFault, natAt_u16 hn, if_neg (Nat.not_lt.2 low), atGroup, groupOf_code, behind, hf])
      refine ⟨⟨field, hf, refused⟩, fun e => ?_, fun e => ?_, fun e => ?_, fun e => ?_, fun e => ?_⟩
      · rwa [lengths (.inl e)] at refused
      · rwa [lengths (.inr (.inl e))] at refused
      · rwa [lengths (.inr (.inr e))] at refused
      · rw [thermal e] at refused
        split at refused
        · rename_i eight
          rwa [if_pos eight]
        · rename_i eight
          rwa [if_neg eight]
      · have trims := trims e
        split at trims
        · rename_i listed
          rw [if_pos listed]
          exact ⟨field, trims, refused⟩
        · rename_i unlisted
          rw [if_neg unlisted]
          rwa [trims] at refused

end Sys2Proof.Machine
end

section
/-! PROOF. What the edit commands leave in a store without errors: OPEN_EDIT, RELEASE_EDIT and the group commands
(R105, R109, R110, R113, R118 to R121). -/
namespace Sys2Proof.Machine

-- One declaration after another: as one text the file has more of them than it may have threads.
set_option Elab.async false

variable {s : State} {p : Port} {n : Nat} {payload : List Byte}

@[simp] theorem State.taken_canonical {rest : List Message} : (s.taken p rest).canonical ↔ s.canonical := by cases p <;> exact Iff.rfl

/-! ### RELEASE_EDIT -/

theorem Cu.releaseBody_of_owns (own : s.Owns p payload n) (open_ : (s.record n).condition ≠ .scheduled) :
    Cu.releaseBody p payload s = (.ok (byteOf (s.record n).condition.code), Cu.discard n s) := by
  rw [Cu.releaseBody, own.enter]
  simp only [open_, if_false]

/-- Settles O33. -/
theorem releaseEditEndsEveryClaim : Obligations.ReleaseEditEndsEveryClaim := by
  intro s p tag rest n canonical hn inUse h hold open_
  have own : s.Owns p (u16 n) n := ⟨natAt_u16_alone (by omega), hn, inUse, hold⟩
  refine ⟨Cu.discard n s, ?_, rfl, Cu.discard_record_same canonical.1, fun k hk => Cu.discard_record_ne hk⟩
  refine congrArg Host.Outcome.next (Cx.command_leaves (r := .ok _) h (by decide) (by nofun) rfl ?_)
  rw [Cu.releaseBody_of_owns own.taken (by rwa [State.taken_record]), State.taken_record, Cu.discard_taken]
  rfl

/-! ### The commit list -/

/-- The expected CRC that a command carries behind its slot. -/
theorem crcOperand (crc : Half) : BitVec.ofNat 16 (natAt (u16 n ++ halfBytes crc) 2 2) = crc := by
  rw [natAt_append_right (by simp), ← List.append_nil (halfBytes crc)]
  exact ofNat_natAt_halfBytes crc []

/-- What GROUP_ADD makes of a record of a store without errors (R118). -/
theorem Cu.groupAddBody_of_owns (own : s.Owns p payload n) (clean : s.clean) :
    (∀ k, positionOf n (s.port p).commitList = some k → Cu.groupAddBody p payload s = (.ok (flagByte true ++ byteOf k), s)) ∧
    (n ∉ (s.port p).commitList → (s.record n).condition = .opened → s.zonePass p (s.record n).seat = true →
      (64 ≤ (s.port p).commitList.length → Cu.groupAddBody p payload s = (.bare .listFull, s)) ∧
      ((s.port p).commitList.length < 64 →
        ((s.record n).pendingDamaged = true ∨ bankCrc (s.record n).pendingBank ≠ BitVec.ofNat 16 (natAt payload 2 2) →
          Cu.groupAddBody p payload s = (⟨.check, halfBytes (bankCrc (s.record n).pendingBank)⟩, s)) ∧
        ((s.record n).pendingDamaged = false → bankCrc (s.record n).pendingBank = BitVec.ofNat 16 (natAt payload 2 2) →
          Cu.groupAddBody p payload s = (.ok (byteOf (s.port p).commitList.length ++ u16 ((s.port p).commitList.length + 1)),
            (s.modify n fun r => { r with
              condition := .frozen, expectedCrc := BitVec.ofNat 16 (natAt payload 2 2), holdTimer := s.params.holdTimeout }).onPort p
                fun q => { q with commitList := q.commitList ++ [n] })))) := by
  rw [Cu.groupAddBody, own.enter]
  refine ⟨fun k hk => by simp only [hk], fun unlisted opened zone => ?_⟩
  simp only [positionOf_eq_none unlisted, opened, zone, reduceCtorEq, if_false, Bool.not_true, Bool.false_eq_true,
    Cu.readPendingBank_clean clean]
  refine ⟨fun full => by rw [if_pos full], fun room => ⟨fun bad => ?_, fun undamaged good => ?_⟩⟩
  · rw [if_neg (by omega), if_pos bad]
  · rw [if_neg (by omega), if_neg (by simp [undamaged, good])]

/-- What GROUP_REMOVE makes of a record (R119). -/
theorem Cu.groupRemoveBody_of_owns (own : s.Owns p payload n) (open_ : (s.record n).condition ≠ .scheduled) :
    (n ∈ (s.port p).commitList → Cu.groupRemoveBody p payload s = (.ok (u16 ((s.port p).commitList.filter (· ≠ n)).length),
      (Cu.reopen n s).onPort p fun q => { q with commitList := q.commitList.filter (· ≠ n) })) ∧
    (n ∉ (s.port p).commitList → Cu.groupRemoveBody p payload s = (.ok (flagByte true), s)) := by
  rw [Cu.groupRemoveBody, own.enter]
  simp only [open_, if_false]
  refine ⟨fun listed => ?_, fun unlisted => by rw [positionOf_eq_none unlisted]⟩
  cases hp : positionOf n (s.port p).commitList with
  | none => exact absurd listed (not_mem_of_positionOf hp)
  | some k =>
    simp only [State.port_onPort]
    cases p <;> rfl

/-- Settles O35. -/
theorem groupAddAndRemoveKeepTheCommitList : Obligations.GroupAddAndRemoveKeepTheCommitList := by
  intro s p tag rest n canonical clean hn inUse hold
  refine ⟨fun crc h => ?add, fun h open_ => ?remove⟩
  case add =>
    have own : s.Owns p (u16 n ++ halfBytes crc) n := ⟨natAt_u16 (by omega) _, hn, inUse, hold⟩
    obtain ⟨position, unlisted⟩ := Cu.groupAddBody_of_owns (own.taken (rest := rest)) (State.taken_clean.2 clean)
    simp only [State.taken_commitList, State.taken_record, State.taken_zonePass, State.taken_params, crcOperand] at position unlisted
    have leaves : ∀ {t : State} {r : Reply}, Cu.groupAddBody p (u16 n ++ halfBytes crc) (s.taken p rest) = (r, t.taken p rest) →
        exec .groupAdd s = .next (t.answered p rest tag r.code r.payload) := fun body =>
      congrArg Host.Outcome.next (Cx.command_leaves h (by decide) (by nofun) rfl body)
    refine ⟨fun k hk => leaves (position k hk), fun hnl opened zone => ?_⟩
    obtain ⟨full, room⟩ := unlisted hnl opened zone
    refine ⟨fun hlen => leaves (full hlen), fun hlen undamaged good => ?_, fun hlen bad => leaves ((room hlen).1 bad)⟩
    refine leaves (r := .ok _) (((room hlen).2 undamaged good).trans ?_)
    rw [State.modify_taken, State.onPort_taken (by intro x; rfl)]
  case remove =>
    have own : s.Owns p (u16 n) n := ⟨natAt_u16_alone (by omega), hn, inUse, hold⟩
    obtain ⟨listed, unlisted⟩ := Cu.groupRemoveBody_of_owns (own.taken (rest := rest)) (by rwa [State.taken_record])
    simp only [State.taken_commitList] at listed unlisted
    have leaves : ∀ {t : State} {r : Reply}, Cu.groupRemoveBody p (u16 n) (s.taken p rest) = (r, t.taken p rest) →
        exec .groupRemove s = .next (t.answered p rest tag r.code r.payload) := fun body =>
      congrArg Host.Outcome.next (Cx.command_leaves h (by decide) (by nofun) rfl body)
    refine ⟨fun hl => leaves (r := .ok _) ((listed hl).trans ?_), fun hl => leaves (unlisted hl)⟩
    rw [Cu.reopen_eq, State.modify_taken, State.onPort_taken (by intro x; rfl), State.taken_params]
    rfl

/-! ### The whole list -/

theorem State.modifyAll_frame {f : Record → Record} {slots : List Nat} :
    s.modifyAll f slots = { s with store := { s.store with records := (s.modifyAll f slots).store.records } } := State.modifyAll_store

/-- Settles O36. -/
theorem groupClearAndCommitEmptyTheList : Obligations.GroupClearAndCommitEmptyTheList := by
  intro s p tag rest canonical
  refine ⟨fun h => ?clear, fun h => ⟨fun zones => ?commit, fun front n back list before outside => ?zone⟩⟩
  case clear =>
    obtain ⟨-, record⟩ := State.modifyAll_records_of_idem (f := Record.reopened s.params.holdTimeout) (slots := (s.port p).commitList)
      canonical.1 fun _ => rfl
    refine ⟨(s.modifyAll (Record.reopened s.params.holdTimeout) (s.port p).commitList).onPort p fun q => { q with commitList := [] },
      ?_, ?_, fun n hn => ?_, fun n hn => ?_⟩
    · refine congrArg Host.Outcome.next (Cx.command_leaves (r := .ok _) h (by decide) (by nofun) rfl ?_)
      simp only [Cu.groupClearBody, Cu.reopenAll_eq, State.taken_commitList, State.taken_params, State.taken_modifyAll]
      rw [State.onPort_taken (by intro x; rfl)]
      rfl
    · rw [State.modifyAll_store]
      cases p <;> rfl
    · rw [State.onPort_record, record, if_pos hn, Record.reopened]
    · rw [State.onPort_record, record, if_neg hn]
  case commit =>
    have list : (s.port p).commitList.find? (fun slot => !s.zonePass p (s.record slot).seat) = none :=
      List.find?_eq_none.2 fun n hn => by simp [zones n hn]
    obtain ⟨-, record⟩ := State.modifyAll_records_of_idem (f := Record.scheduled) (slots := (s.port p).commitList) canonical.1 fun _ => rfl
    refine ⟨(s.modifyAll Record.scheduled (s.port p).commitList).onPort p fun q =>
      { q with commitList := [], scheduled := insertAll (s.port p).commitList q.scheduled }, ?_, ?_, fun n hn => ?_, fun n hn => ?_, fun n => ?_⟩
    · refine congrArg Host.Outcome.next (Cx.command_leaves (r := .ok _) h (by decide) (by nofun) rfl ?_)
      simp only [Cu.groupCommitBody, Cu.scheduleAll_eq, State.taken_commitList, State.taken_record, State.taken_zonePass, list,
        State.taken_modifyAll, State.nextFrame, State.taken_ftu]
      cases p <;> rfl
    · rw [State.modifyAll_store]
      cases p <;> rfl
    · rw [State.onPort_record, record, if_pos hn, Record.scheduled]
    · rw [State.onPort_record, record, if_neg hn]
    · rw [State.port_onPort, State.modifyAll_port, mem_insertAll]
      exact or_comm
  case zone =>
    refine congrArg Host.Outcome.next (Cx.command_leaves (r := ⟨.zone, u16 n⟩) h (by decide) (by nofun) rfl ?_)
    have first : (s.port p).commitList.find? (fun slot => !s.zonePass p (s.record slot).seat) = some n := by
      rw [list, List.find?_append, List.find?_eq_none.2 fun k hk => by simp [before k hk]]
      simp [outside]
    simp only [Cu.groupCommitBody, State.taken_commitList, State.taken_record, State.taken_zonePass, first]

/-! ### OPEN_EDIT -/

/-- Settles O29. -/
theorem openEditFillsThePendingBankOrIsRefused : Obligations.OpenEditFillsThePendingBankOrIsRefused := by
  refine ⟨fun s p tag rest n clean hn inUse h hold zone => ?opens, fun s p tag rest n hn inUse h => ⟨fun held => ?held, fun seat hold seated outside => ?zone⟩⟩
  case opens =>
    intro r source opened
    refine ⟨(s.modify n fun r => r.setBank r.pendingIx source.2).modify n fun r => { r with
      hold := p.hold, condition := .opened, pendingDamaged := false, holdTimer := s.params.holdTimeout }, ?_, rfl, fun canonical => ?_, fun k hk => ?_⟩
    · refine congrArg Host.Outcome.next (Cx.command_leaves (r := .ok _) h (by decide) (by nofun) rfl ?_)
      have source_eq : copySource (s.taken p rest) r = source := by
        simp only [copySource, State.taken_batches, State.taken_params, source]
        rfl
      rw [Cu.openBody, withSlot_inUse (natAt_u16_alone (by omega)) hn (by rwa [State.taken_record])]
      simp only [State.taken_record, hold, ne_eq, not_true_eq_false, if_false, State.taken_zonePass, zone, Bool.not_true, Bool.false_eq_true,
        State.read_clean (State.taken_clean.2 clean), State.fillPending_clean (State.taken_clean.2 clean), State.modify_taken]
      rw [show s.record n = r from rfl, source_eq]
      cases p <;> rfl
    · rw [State.modify_modify canonical.1, State.record_modify_same s canonical.1]
    · rw [State.record_modify_ne _ hk, State.record_modify_ne _ hk]
  case held =>
    refine congrArg Host.Outcome.next (Cx.command_leaves (r := ⟨.held, _⟩) h (by decide) (by nofun) rfl ?_)
    rw [Cu.openBody, withSlot_inUse (natAt_u16_alone (by omega)) hn (by rwa [State.taken_record])]
    simp only [State.taken_record, held, ne_eq, not_false_eq_true, if_true]
    rfl
  case zone =>
    refine congrArg Host.Outcome.next (Cx.command_leaves (r := .bare .zone) h (by decide) (by nofun) rfl ?_)
    rw [Cu.openBody, withSlot_inUse (natAt_u16_alone (by omega)) hn (by rwa [State.taken_record])]
    simp only [State.taken_record, hold, ne_eq, not_true_eq_false, if_false, State.taken_zonePass, seated, State.zonePass_eq_false.2 outside,
      Bool.not_false, if_true]

end Sys2Proof.Machine
end

section
/-! PROOF. The arithmetic of correction, dithering and drift, and the pixels of a burst (R62 to R66, R74 to R80, R89, R90). -/
namespace Sys2Proof.Machine

-- One declaration after another: as one text the file has more of them than it may have threads.
set_option Elab.async false

/-! ### The unity bank (R7, R8) -/

/-- A component through a row of the unity matrix is the component (R74). -/
theorem stage1_unity {x : Half} {row : Prim Int} {p : Pixel} (h : rowSum row p = 16384 * (x.toNat : Int)) :
    stage1 row p = x.toNat ∧ stage1Clips row p = false := by
  have hx := x.isLt
  have raw : stage1Raw row p = x.toNat := by rw [stage1Raw, h]; omega
  rw [stage1, stage1Clips, raw, clampInt]
  refine ⟨by omega, decide_eq_false (by omega)⟩

/-- A component at gain 32768, without trims and with rounding alone, is output as it came (R76, R77). -/
theorem correctOne_unity {x : Half} {row : Prim Int} {p : Pixel} (h : rowSum row p = 16384 * (x.toNat : Int)) :
    correctOne row p 32768 256 8 = (x, 0) := by
  obtain ⟨value, clips⟩ := stage1_unity h
  have hx := x.isLt
  have raw : stage4Raw (stage3 x.toNat 32768 256) 8 = x.toNat := by
    rw [stage4Raw, stage3, Nat.mul_assoc, show (32768 * 256 : Nat) = 16 * 2 ^ 19 from rfl, ← Nat.mul_assoc, Nat.mul_div_cancel _ (by decide)]
    omega
  simp only [correctOne, value, clips, stage4, raw, Nat.min_eq_right (show x.toNat ≤ 65535 by omega), if_neg (show ¬ 65535 < x.toNat by omega),
    BitVec.ofNat_toNat, BitVec.setWidth_eq, Bool.false_eq_true, if_false]

/-- Through the unity bank at gain 32768 with dithering OFF every pixel is output as it came in (R7). -/
theorem correctPixel_unity {p : Pixel} {set : Settings} {index : Nat} {reg : BitVec 15} (off : set.temporal = false) :
    correctPixel (unityBank 32768).matrix (unityBank 32768).trims (unityBank 32768).gains set index reg p = (p, 0) := by
  have r := correctOne_unity (x := p.r) (row := ⟨16384, 0, 0⟩) (p := p) (by simp [rowSum])
  have g := correctOne_unity (x := p.g) (row := ⟨0, 16384, 0⟩) (p := p) (by simp [rowSum])
  have b := correctOne_unity (x := p.b) (row := ⟨0, 0, 16384⟩) (p := p) (by simp [rowSum])
  have factor : trimFactor (unityBank 32768).trims set.cols set.rows (index % set.cols) (index / set.cols) = 256 := rfl
  simp only [correctPixel, ditherValues, off, Bool.false_eq_true, if_false, factor]
  simp only [unityBank, r, g, b]

/-! ### The stages spelled out -/

/-- One band of the trim factor, spelled out (R75). -/
theorem trimStep_eq {trims : List Trim} {cols rows x y f : Nat} {edge : Edge} {within : Nat → Prop} [DecidablePred within]
    (h : ∀ t : Trim, t.edge = edge → (inBand cols rows x y t = true ↔ within t.width)) :
    trimStep trims cols rows x y f edge =
      match trims.find? fun t => t.edge = edge with
      | none => f
      | some t => if within t.width then f * t.factor / 256 else f := by
  have test : (fun t : Trim => t.edge == edge) = fun t : Trim => decide (t.edge = edge) := rfl
  rw [trimStep, test]
  cases ht : trims.find? fun t : Trim => decide (t.edge = edge) with
  | none => rfl
  | some t =>
    have edge : t.edge = edge := by simpa using List.find?_some ht
    simp only [h t edge]

/-- The dither register shifts by one, with bits 14 and 13 fed back (R78). -/
theorem ditherStep_getLsbD_zero (reg : BitVec 15) : (ditherStep reg).getLsbD 0 = (reg.getLsbD 14 ^^ reg.getLsbD 13) := by
  simp [ditherStep]

theorem ditherStep_getLsbD_succ (reg : BitVec 15) {i : Nat} (h : i < 14) : (ditherStep reg).getLsbD (i + 1) = reg.getLsbD i := by
  have inside : i + 1 < 15 := by omega
  simp [ditherStep, inside, -BitVec.getLsbD_eq_getElem]

/-- Settles O52. -/
theorem unityCorrectionIsTheIdentity : Obligations.UnityCorrectionIsTheIdentity := by
  refine ⟨fun p set index reg off => correctPixel_unity off, fun matrix trims gains set index reg p => ?stages,
    fun reg => ⟨ditherStep_getLsbD_zero reg, fun i hi => ditherStep_getLsbD_succ reg hi, ditherStep_ne_zero⟩,
    fun limit bank θ hours => ⟨rfl, ?limited⟩⟩
  case stages =>
    intro x y band f d one r g b
    have factor : trimFactor trims set.cols set.rows x y = f := by
      rewrite [trimFactor, List.foldl_cons, List.foldl_cons, List.foldl_cons, List.foldl_cons, List.foldl_nil,
        trimStep_eq (edge := .top) (within := (y < ·)) fun t ht => by simp [inBand, ht],
        trimStep_eq (edge := .bottom) (within := (set.rows ≤ y + ·)) fun t ht => by simp [inBand, ht],
        trimStep_eq (edge := .left) (within := (x < ·)) fun t ht => by simp [inBand, ht],
        trimStep_eq (edge := .right) (within := (set.cols ≤ x + ·)) fun t ht => by simp [inBand, ht]]
      rfl
    have dither : ditherValues set.temporal reg = ⟨d 0, d 4, d 8⟩ := by
      cases ht : set.temporal <;> simp [ditherValues, d, ht]
    have component : ∀ (row : Prim Int) (gain d : Nat), correctOne row p gain f d = one row gain d := fun row gain d => by
      simp only [correctOne, stage1Clips, decide_eq_true_eq]
      rfl
    simp only [correctPixel, show index % set.cols = x from rfl, show index / set.cols = y from rfl, factor, dither, component]
    rfl
  case limited =>
    simp only [isLimited, Prim.any, Bool.or_eq_true, decide_eq_true_eq, or_assoc]
    rfl

/-! ### Bursts (R62 to R66, R80) -/

section
variable {s : State} {b : Burst} {p : Pixel} {reg : BitVec 15}

theorem Burst.output_dark (h : 1536 ≤ b.tag.toNat ∨ b.withdrawn = true ∨ b.entry = .dark ∨ b.settings.cols * b.settings.rows ≤ b.index) :
    b.output reg p = (⟨0, 0, 0⟩, 0) := by
  cases he : b.entry with
  | dark => simp only [Burst.output, he]
  | lit kind m trims gains =>
    have dark : b.unseated = true ∨ b.withdrawn = true ∨ b.tilePixels ≤ b.index := by
      rcases h with h | h | h | h
      · exact .inl (decide_eq_true h)
      · exact .inr (.inl h)
      · rw [he] at h
        cases h
      · exact .inr (.inr h)
    simp only [Burst.output, he, if_pos dark]

theorem Burst.output_lit {kind : LitKind} {m : Prim (Prim Int)} {trims : List Trim} {gains : Prim Nat} (seated : b.tag.toNat < 1536)
    (shown : b.withdrawn = false) (he : b.entry = .lit kind m trims gains) (inside : b.index < b.settings.cols * b.settings.rows) :
    b.output reg p = correctPixel m trims gains b.settings b.index reg p := by
  have lit : ¬ (b.unseated = true ∨ b.withdrawn = true ∨ b.tilePixels ≤ b.index) := by
    rintro (unseated | withdrawn | beyond)
    · exact Nat.not_le.2 seated (of_decide_eq_true unseated)
    · exact absurd withdrawn (by simp [shown])
    · exact Nat.not_le.2 inside beyond
  simp only [Burst.output, he, if_neg lit]

/-- The running clip counts after a pixel. -/
def Cd.clipped (b : Burst) (p : Pixel) (cd : Cd) : Table Nat :=
  if (b.output cd.dither p).2 = 0 then cd.running
  else Table.set 0 b.tag.toNat (saturate (Table.get 0 cd.running b.tag.toNat) (b.output cd.dither p).2) cd.running

/-- Everything a pixel of a burst does. -/
theorem Cd.pixelOf_eq (b : Burst) (start : Bool) (p : Pixel) (s : State) : Cd.pixelOf b start p s = { s with
    cd := { s.cd with
      output := some ⟨start, b.tag, (b.output s.cd.dither p).1⟩, dither := ditherStep s.cd.dither, running := Cd.clipped b p s.cd,
      burst := some { b with index := b.index + 1 } }
    store := { s.store with nu := { s.store.nu with
      counters := if b.tag.toNat < 1536 ∧ b.index = b.settings.cols * b.settings.rows
        then s.store.nu.counters.bump .overlengthBursts 1 else s.store.nu.counters } } } := by
  have beyond : (!b.unseated) = true ∧ b.index = b.tilePixels ↔ b.tag.toNat < 1536 ∧ b.index = b.settings.cols * b.settings.rows := by
    rw [Bool.not_eq_true', Burst.unseated, decide_eq_false_iff_not, Nat.not_le]
    rfl
  simp only [Cd.pixelOf]
  by_cases h : b.tag.toNat < 1536 ∧ b.index = b.settings.cols * b.settings.rows
  · rw [if_pos (beyond.2 h), if_pos h]
    rfl
  · rw [if_neg (mt beyond.1 h), if_neg h]
    rfl

theorem Cd.get_clipped {n : Nat} {out : Pixel × Nat} (canonical : s.canonical) (h : b.output s.cd.dither p = out) :
    Table.get 0 (Cd.clipped b p s.cd) n =
      if n = b.tag.toNat ∧ out.2 ≠ 0 then min 65535 (Table.get 0 s.cd.running n + out.2) else Table.get 0 s.cd.running n := by
  obtain ⟨-, -, -, -, -, -, wf, -⟩ := canonical
  rw [Cd.clipped, h]
  by_cases clips : out.2 = 0
  · simp [clips]
  · rw [if_neg clips]
    by_cases hn : n = b.tag.toNat
    · subst hn
      simp only [Table.get_set_same wf, clips, ne_eq, not_false_eq_true, and_self, if_true, saturate]
    · simp only [Table.get_set_ne hn, hn, false_and, if_false]

theorem Cd.clipped_dark (h : b.output s.cd.dither p = (⟨0, 0, 0⟩, 0)) : Cd.clipped b p s.cd = s.cd.running := by
  rw [Cd.clipped, h]
  rfl

/-- Settles O51. -/
theorem pixelsFollowTheirBurst : Obligations.PixelsFollowTheirBurst := by
  unfold Obligations.PixelsFollowTheirBurst
  intro corrected
  refine ⟨fun s tag p cols rows => ?start, fun s b p burst => ?later, fun s p none_ => ?stray⟩
  case start =>
    intro reg
    have pixels : 0 < s.cd.settings.cols * s.cd.settings.rows := Nat.mul_pos cols rows
    -- The burst that begins, and the state in which its first pixel is taken.
    let b : Burst := ⟨tag, Table.get .dark s.cd.snapshot tag.toNat, s.cd.settings, s.cd.withdrawn, 0⟩
    let begun : State := { s with
      cd := { s.cd with dither := reg, seedLoad := none }
      store := { s.store with nu := { s.store.nu with
        counters := if 1536 ≤ tag.toNat then s.store.nu.counters.bump .burstsUnseated 1 else s.store.nu.counters } } }
    have run : exec (.pixelBurst tag p) s = .next (Cd.pixelOf b true p begun) := by
      refine congrArg Host.Outcome.next ?_
      have unseated : b.unseated = true ↔ 1536 ≤ tag.toNat := decide_eq_true_iff
      show Cd.pixelOf b true p (if b.unseated then _ else _) = _
      simp only [unseated, begun]
      split_ifs <;> rfl
    refine ⟨_, (b.output reg p).1, run, ?_, fun dark => ?_, fun kind m trims gains seated shown he => ?_⟩
    · rw [Cd.pixelOf_eq]
      have first : ¬ (tag.toNat < 1536 ∧ 0 = s.cd.settings.cols * s.cd.settings.rows) := by omega
      simp only [b, begun, first, if_false, Nat.zero_add]
    · have out : b.output reg p = (⟨0, 0, 0⟩, 0) := Burst.output_dark (by tauto)
      rw [Cd.pixelOf_eq, out]
      exact ⟨rfl, Cd.clipped_dark (s := begun) out⟩
    · have out := Burst.output_lit (b := b) (reg := reg) (p := p) seated shown he pixels
      rw [Cd.pixelOf_eq]
      exact ⟨by rw [out], fun canonical n => Cd.get_clipped (s := begun) canonical out⟩
  case later =>
    have run : exec (.pixel p) s = .next (Cd.pixelOf b false p s) := by
      refine congrArg Host.Outcome.next ?_
      simp only [Cd.laterPixel, burst]
    refine ⟨_, (b.output s.cd.dither p).1, run, ?_, fun dark => ?_, fun kind m trims gains seated shown he inside => ?_⟩
    · rw [Cd.pixelOf_eq]
    · have out : b.output s.cd.dither p = (⟨0, 0, 0⟩, 0) := Burst.output_dark dark
      rw [Cd.pixelOf_eq, out]
      exact ⟨rfl, Cd.clipped_dark out⟩
    · have out := Burst.output_lit (reg := s.cd.dither) (p := p) seated shown he inside
      rw [Cd.pixelOf_eq]
      exact ⟨by rw [out], fun canonical n => Cd.get_clipped canonical out⟩
  case stray =>
    refine ⟨_, some ⟨false, Config.straySeat s.draws, Config.strayPixel s.draws⟩, congrArg Host.Outcome.next ?_, rfl⟩
    simp only [Cd.laterPixel, none_]

end

end Sys2Proof.Machine
end

section
/-! PROOF. The check of ageing seats, SCAN_RECORDS and RETIRE_RECORD (R4, R22, R23, R42). -/
namespace Sys2Proof.Machine

-- One declaration after another: as one text the file has more of them than it may have threads.
set_option Elab.async false

variable {s : State} {n : Nat}

/-! ### Ageing seats (R42) -/

theorem Seat.goesStale_iff {timeout : Nat} {e : Seat} : e.goesStale timeout = true ↔
    e.kind ≠ .vacant ∧ e.origin = .reported ∧ e.fresh = .fresh ∧ timeout ≠ 0 ∧ timeout ≤ e.since := by
  simp only [Seat.goesStale, Seat.ages, Bool.and_eq_true, bne_iff_ne, beq_iff_eq, decide_eq_true_eq, and_assoc]

/-- An entry of a canonical table passes a test which the default fails exactly where some key's value does. -/
theorem Table.any_iff {α : Type} [DecidableEq α] {d : α} {t : Table α} {test : α → Bool} (wf : Table.wf d t) (hd : test d = false) :
    (t.any fun e => test e.2) = true ↔ ∃ n, test (Table.get d t n) = true := by
  rw [List.any_eq_true]
  constructor
  · rintro ⟨e, he, passes⟩
    exact ⟨e.1, by rwa [Table.get_of_mem wf he]⟩
  · rintro ⟨n, passes⟩
    have listed : n ∈ Table.keys t := Table.mem_keys_of_get fun h => by rw [h, hd] at passes; cases passes
    obtain ⟨e, he, rfl⟩ := List.mem_map.1 listed
    exact ⟨e, he, by rwa [Table.get_of_mem wf he] at passes⟩

/-- Settles O28. -/
theorem dueSeatsTurnStale : Obligations.DueSeatsTurnStale := by
  classical
  intro s canonical standing
  obtain ⟨-, -, -, wf, -⟩ := canonical
  have some_ : (s.seats.any fun e => e.2.goesStale s.params.statusTimeout) = true ↔
      ∃ n, (s.seat n).goesStale s.params.statusTimeout = true := Table.any_iff wf rfl
  refine ⟨Pu.staleCheck s, rfl, ?_⟩
  intro due
  have check : Pu.staleCheck s = { s with
      seats := Table.mapEntries Seat.vacant (fun _ e => if e.goesStale s.params.statusTimeout then { e with fresh := .stale } else e) s.seats
      seatCheckDue := false
      store := { s.store with nu := if ∃ n, due (s.seat n) then Nu.addBoth .seatStale s.store.nu else s.store.nu } } := by
    have : (∃ n, due (s.seat n)) ↔ ∃ n, (s.seat n).goesStale s.params.statusTimeout = true := exists_congr fun _ => Seat.goesStale_iff.symm
    simp only [Pu.staleCheck, standing, if_true, some_, this]
    split_ifs <;> rfl
  rw [check]
  refine ⟨fun n => ?_, fun h => if_pos h, fun h => if_neg (not_exists.2 h), rfl⟩
  have entry : seatEntry (Table.mapEntries Seat.vacant (fun _ e => if e.goesStale s.params.statusTimeout then { e with fresh := .stale } else e)
      s.seats) n = if (s.seat n).goesStale s.params.statusTimeout then { s.seat n with fresh := .stale } else s.seat n :=
    Table.get_mapEntries rfl wf
  exact ⟨fun h => entry.trans (if_pos (Seat.goesStale_iff.2 h)), fun h => entry.trans (if_neg (mt Seat.goesStale_iff.1 h))⟩

/-! ### SCAN_RECORDS (R22) -/

/-- The walk of SCAN_RECORDS from a slot, with what it has found before. -/
theorem Rt.scan_eq {filter left slot : Nat} {found : List Nat} (clean : s.clean) (room : found.length ≤ 16)
    (full : found.length = 16 → slot = found.getLastD 0 + 1) :
    Rt.scan filter left slot found s =
      let all := found ++ (List.range' slot left).filter fun n => inFilter filter (s.record n).state
      (all.take 16, if 16 ≤ all.length then (all.take 16).getLastD 0 + 1 else slot + left, s) := by
  induction left generalizing slot found with
  | zero =>
    simp only [Rt.scan, List.range'_zero, List.filter_nil, List.append_nil, List.take_of_length_le room, Nat.add_zero]
    split
    · rw [full (by omega)]
    · rfl
  | succ left ih =>
    rw [Rt.scan]
    by_cases h : 16 ≤ found.length
    · have len : found.length = 16 := by omega
      simp only [if_pos h, List.take_append_of_le_length h, List.take_of_length_le room, List.length_append]
      rw [if_pos (by omega), full len]
    · simp only [if_neg h, State.read_clean clean, List.range'_succ]
      cases hit : inFilter filter (s.record slot).state with
      | false =>
        rw [if_neg (by simp), ih room (by omega), List.filter_cons_of_neg (by simp [hit]), Nat.add_right_comm slot 1 left]
        rfl
      | true =>
        rw [if_pos rfl, ih (by simp; omega) (by simp), List.filter_cons_of_pos (p := fun n => inFilter filter (s.record n).state) hit, List.append_assoc, Nat.add_right_comm slot 1 left]
        rfl

/-- Settles O18. -/
theorem scanAnswersTheFirstSixteenMatches : Obligations.ScanAnswersTheFirstSixteenMatches := by
  have operands : ∀ first filter : Nat, first < 65536 → filter < 256 →
      natAt (u16 first ++ byteOf filter) 0 2 = first ∧ natAt (u16 first ++ byteOf filter) 2 1 = filter := fun first filter hf hw =>
    ⟨natAt_u16 hf _, by rw [natAt_append_right (by simp)]; exact natAt_byteOf_alone hw⟩
  refine ⟨fun s p tag rest first filter clean hf hw names h => ?scans, fun s p tag rest first filter hf hw h => ⟨fun bad => ?slot, fun good zero => ?filter⟩⟩
  case scans =>
    intro hits
    obtain ⟨atFirst, atFilter⟩ := operands first filter (by omega) hw
    have low : inFilter (filter % 16) = inFilter filter := by
      funext state
      have bits : ∀ i, i < 4 → (filter % 16).testBit i = filter.testBit i := fun i hi => by
        rw [show 16 = 2 ^ 4 from rfl, Nat.testBit_mod_two_pow]
        simp [hi]
      cases state <;> exact bits _ (by decide)
    refine congrArg Host.Outcome.next (Cx.command_leaves (r := .ok _) h (by decide) (by nofun) rfl ?_)
    simp only [Rt.scanBody, atFirst, atFilter, if_neg (Nat.not_lt.2 hf), if_neg names,
      Rt.scan_eq (found := []) (State.taken_clean.2 clean) (by simp) (by simp), low, State.taken_record, List.nil_append, State.taken_freeCount]
    rw [show first + (2048 - first) = 2048 by omega]
    rfl
  case slot =>
    obtain ⟨atFirst, -⟩ := operands first filter hf hw
    refine congrArg Host.Outcome.next (Cx.command_leaves (r := .badField 0) h (by decide) (by nofun) rfl ?_)
    simp only [Rt.scanBody, atFirst, if_pos bad]
  case filter =>
    subst zero
    obtain ⟨atFirst, atFilter⟩ := operands first 0 hf hw
    refine congrArg Host.Outcome.next (Cx.command_leaves (r := .badField 2) h (by decide) (by nofun) rfl ?_)
    simp only [Rt.scanBody, atFirst, atFilter, if_neg (Nat.not_lt.2 good), Nat.zero_mod, if_true]

/-! ### RETIRE_RECORD (R4, R23) -/

theorem Rt.retireEvaluated_taken {p : Port} {rest : List Message} : Rt.retireEvaluated n (s.taken p rest) = (Rt.retireEvaluated n s).taken p rest := by
  rw [Rt.retireEvaluated_eq, Rt.retireEvaluated_eq]
  cases p <;> rfl

theorem Rt.retireEvaluated_lookup (wf : Table.wf none s.index) (x : Nat) :
    (Rt.retireEvaluated n s).lookup x = if x = (s.record n).identity then none else s.lookup x := by
  rw [Rt.retireEvaluated_eq]
  exact Rt.retire_lookup wf x

/-- A slot whose every word is written anew holds no damage. -/
theorem Store.mend_all_damage (n : Nat) (st : Store) : (st.mend n fun _ => true).damage = st.damage.filter fun d => d.slot ≠ n := by
  simp [Store.mend]

/-- Settles O19. -/
theorem retireRecordFreesTheSlot : Obligations.RetireRecordFreesTheSlot := by
  intro s p tag rest n canonical hn inUse h
  have ⟨wf, index, _⟩ := canonical
  have enter : ∀ {body : Nat → State → Reply × State}, withSlot (u16 n) body (s.taken p rest) = body n (s.taken p rest) :=
    withSlot_inUse (natAt_u16_alone (by omega)) hn (by rwa [State.taken_record])
  refine ⟨fun hold absent => ?retires, fun held => ?held, fun seat hold seated => ?placed⟩
  case retires =>
    refine ⟨Rt.retireEvaluated n s, ?_, ?_, Rt.retireEvaluated_record_same wf, fun k hk => Rt.retireEvaluated_record_ne hk, ?_, fun x hx => ?_⟩
    · refine congrArg Host.Outcome.next (Cx.command_leaves (r := .ok _) h (by decide) (by nofun) rfl ?_)
      rw [Rt.retireBody, enter]
      simp only [State.taken_record, hold, ne_eq, not_true_eq_false, if_false, absent, Rt.retireEvaluated_taken, State.taken_freeCount]
      rw [if_neg (by simp [State.zonePass]), State.freeCount, Rt.retireEvaluated_eq, List.length_append]
      rfl
    · rw [Rt.retireEvaluated_eq, ← Store.mend_all_damage]
      rfl
    · rw [Rt.retireEvaluated_lookup index, if_pos rfl]
    · rw [Rt.retireEvaluated_lookup index, if_neg hx]
  case held =>
    refine congrArg Host.Outcome.next (Cx.command_leaves (r := .bare .held) h (by decide) (by nofun) rfl ?_)
    rw [Rt.retireBody, enter]
    simp only [State.taken_record, if_pos held]
  case placed =>
    refine congrArg Host.Outcome.next (Cx.command_leaves (r := ⟨.placed, u16 seat⟩) h (by decide) (by nofun) rfl ?_)
    rw [Rt.retireBody, enter]
    simp only [State.taken_record, hold, ne_eq, not_true_eq_false, if_false, seated]

end Sys2Proof.Machine
end

section
/-! PROOF. Holds that expire, and the abandonment of the load (R105, R107, R166, R167, R169). -/
namespace Sys2Proof.Machine

-- One declaration after another: as one text the file has more of them than it may have threads.
set_option Elab.async false

variable {s : State} {p : Port}

/-! ### Holds that expire (R107) -/

theorem lowest_some {l : List Nat} {n : Nat} (h : lowest l = some n) : n ∈ l ∧ ∀ m ∈ l, n ≤ m := by
  induction l generalizing n with
  | nil => cases h
  | cons a l ih =>
    simp only [lowest] at h
    cases hl : lowest l with
    | none =>
      have nil : l = [] := by
        cases l with
        | nil => rfl
        | cons b l =>
          simp only [lowest] at hl
          split at hl <;> cases hl
      rw [hl] at h
      cases h
      simp [nil]
    | some m =>
      obtain ⟨mem, least⟩ := ih hl
      rw [hl] at h
      cases h
      refine ⟨?_, fun k hk => ?_⟩
      · rcases Nat.le_total a m with le | le
        · rw [Nat.min_eq_left le]
          exact List.mem_cons_self
        · rw [Nat.min_eq_right le]
          exact List.mem_cons_of_mem _ mem
      · rcases List.mem_cons.1 hk with rfl | hk
        · exact Nat.min_le_left ..
        · exact (Nat.min_le_right ..).trans (least k hk)

theorem lowest_none {l : List Nat} (h : lowest l = none) : l = [] := by
  cases l with
  | nil => rfl
  | cons a l =>
    simp only [lowest] at h
    split at h <;> cases h

theorem Cu.expirePort_none (h : ∀ n, (s.record n).expires p = false) : Cu.expirePort p s = s := by
  have none_ : s.slotsWhere (Record.expires p) = [] := List.filter_eq_nil_iff.2 fun n _ => by simp [h n]
  simp only [Cu.expirePort, none_]
  rfl

theorem Record.unclaimed_expires (r : Record) : r.unclaimed.expires p = false := rfl

/-- Everything the expiry of one port's holds does. -/
theorem Cu.expirePort_eq {first : Nat} (h : lowest (s.slotsWhere (Record.expires p)) = some first) : Cu.expirePort p s =
    ((Cu.discardAll (s.slotsWhere (Record.expires p)) s).onPort p fun q =>
      { q with expiry := some ⟨s.ftu.frameCount, (s.slotsWhere (Record.expires p)).length, first⟩ }).addEvent p .holdExpired := by
  simp only [Cu.expirePort, h]

theorem Cu.expirePort_record (wf : Table.wf Record.blank s.store.records) (n : Nat) :
    (Cu.expirePort p s).record n = if (s.record n).expires p then (s.record n).unclaimed else s.record n := by
  have mem : n ∈ s.slotsWhere (Record.expires p) ↔ (s.record n).expires p = true := State.mem_slotsWhere rfl
  cases h : lowest (s.slotsWhere (Record.expires p)) with
  | none =>
    rw [lowest_none h] at mem
    rw [if_neg (fun hn => nomatch mem.2 hn), Cu.expirePort]
    simp only [h]
  | some first =>
    rw [Cu.expirePort_eq h]
    refine ((State.onPort_record ..).trans ((Cu.discardAll_records wf).2 n)).trans ?_
    simp only [mem]

/-- With no hold of the other port due, the check of both ports is the check of one. -/
theorem Cu.expire_eq (wf : Table.wf Record.blank s.store.records) (h : ∀ n, (s.record n).expires p.other = false) :
    Cu.expire s = Cu.expirePort p s := by
  cases p with
  | b => exact congrArg (Cu.expirePort .b) (Cu.expirePort_none h)
  | a =>
    refine Cu.expirePort_none fun n => ?_
    rw [Cu.expirePort_record wf]
    split
    · rfl
    · exact h n

/-- Settles O38. -/
theorem expiredHoldsAreDiscarded : Obligations.ExpiredHoldsAreDiscarded := by
  intro s p canonical others
  obtain ⟨wf, -⟩ := canonical
  have mem : ∀ n, n ∈ s.slotsWhere (Record.expires p) ↔ (s.record n).expires p = true := fun n => State.mem_slotsWhere rfl
  refine ⟨Cu.expirePort p s, congrArg Host.Outcome.next (Cu.expire_eq wf others), ?_⟩
  cases h : lowest (s.slotsWhere (Record.expires p)) with
  | none =>
    have due : ∀ n, (s.record n).expires p = false := fun n => by
      rw [← Bool.not_eq_true, ← mem, lowest_none h]
      nofun
    rw [Cu.expirePort_none due]
    refine ⟨?_, rfl, rfl, rfl, fun n => by rw [due]; rfl, fun q => ?_, ?_, fun n hn => ?_, fun _ => rfl⟩
    · cases p <;> rfl
    · simp [due]
    · simp [due]
    · rw [due] at hn
      cases hn
  | some first =>
    have kept : ∀ l : List Nat, l.filter (· ∉ s.slotsWhere (Record.expires p)) = l.filter fun n => !(s.record n).expires p := fun l =>
      List.filter_congr fun n _ => by simp only [mem]; cases (s.record n).expires p <;> rfl
    obtain ⟨edits, index, queue, nu, damage⟩ := Cu.discardAll_kept (slots := s.slotsWhere (Record.expires p)) (s := s)
    obtain ⟨lists, load⟩ := Cu.discardAll_lists (slots := s.slotsWhere (Record.expires p)) (s := s)
    obtain ⟨listed, least⟩ := lowest_some h
    refine ⟨?_, ?_, ?_, ?_, Cu.expirePort_record wf, fun q => ?_, ?_,
      fun n hn => ⟨?_, ⟨s.ftu.frameCount, (s.slotsWhere (Record.expires p)).length, first⟩, ?_, rfl, ?_, ?_, rfl⟩, fun none_ => ?_⟩
    · rw [Cu.expirePort_eq h]
      generalize Cu.discardAll _ s = d at edits
      rw [State.editsOnly] at edits ⊢
      conv_lhs => rw [edits]
      cases p <;> rfl
    · rw [Cu.expirePort_eq h]
      exact (State.onPort_index ..).trans index
    · rw [Cu.expirePort_eq h]
      exact (State.onPort_freeQueue ..).trans queue
    · rw [Cu.expirePort_eq h]
      exact (congrArg Store.damage (State.onPort_store ..)).trans damage
    · rw [Cu.expirePort_eq h]
      obtain ⟨commitList, scheduled⟩ := lists q
      rw [← kept, ← kept, ← commitList, ← scheduled]
      cases p <;> cases q <;> exact ⟨rfl, rfl⟩
    · rw [Cu.expirePort_eq h, ← kept, ← load]
      exact State.onPort_load ..
    · rw [Cu.expirePort_eq h, ← nu]
      exact congrArg (fun st : Store => st.nu.add p .holdExpired) (State.onPort_store ..)
    · rw [Cu.expirePort_eq h]
      exact congrArg PortState.expiry (State.port_onPort ..)
    · exact least n ((mem n).2 hn)
    · exact (mem first).1 listed
    · exact absurd ((mem first).1 listed) (by simp [none_])

/-! ### Several records retired (R4) -/

/-- The directory after the retirement of several records. -/
structure Rt.Retired (s : State) (slots : List Nat) (t : State) : Prop where
  wf : Table.wf Record.blank t.store.records ∧ Table.wf none t.index
  record : ∀ n, t.record n = if n ∈ slots then Record.blank else s.record n
  lookup : ∀ x, t.lookup x = if x ∈ slots.map (fun n => (s.record n).identity) then none else s.lookup x
  frame : t = { s with
    store := { s.store with records := t.store.records, damage := s.store.damage.filter fun d => d.slot ∉ slots }
    index := t.index
    freeQueue := s.freeQueue ++ slots }

theorem Rt.retireAll_retired {slots : List Nat} (records : Table.wf Record.blank s.store.records) (index : Table.wf none s.index) (nodup : slots.Nodup) :
    Rt.Retired s slots (slots.foldl (fun acc n => Rt.retireEvaluated n acc) s) := by
  induction slots generalizing s with
  | nil => exact ⟨⟨records, index⟩, fun _ => rfl, fun _ => rfl, by simp⟩
  | cons m slots ih =>
    rw [List.nodup_cons] at nodup
    have one : Rt.retireEvaluated m s = { s with
        store := { s.store with
          records := (Rt.retireEvaluated m s).store.records, damage := s.store.damage.filter fun d => d.slot ≠ m }
        index := (Rt.retireEvaluated m s).index
        freeQueue := s.freeQueue ++ [m] } := by
      rw [Rt.retireEvaluated_eq, ← Store.mend_all_damage]
      rfl
    have records' : Table.wf Record.blank (Rt.retireEvaluated m s).store.records := by
      rw [Rt.retireEvaluated_eq]
      exact Table.wf_set records
    have index' : Table.wf none (Rt.retireEvaluated m s).index := by
      rw [Rt.retireEvaluated_eq]
      exact Table.wf_set index
    obtain ⟨wf, record, lookup, frame⟩ := ih records' index' nodup.2
    rw [List.foldl_cons]
    generalize List.foldl _ (Rt.retireEvaluated m s) slots = t at wf record lookup frame
    have same : ∀ n ∈ slots, (Rt.retireEvaluated m s).record n = s.record n := fun n hn =>
      Rt.retireEvaluated_record_ne fun e => nodup.1 (e ▸ hn)
    refine ⟨wf, fun n => (record n).trans ?_, fun x => (lookup x).trans ?_, ?_⟩
    · by_cases hn : n = m
      · subst hn
        simp [nodup.1, Rt.retireEvaluated_record_same records]
      · simp [hn, Rt.retireEvaluated_record_ne hn]
    · rw [Rt.retireEvaluated_lookup index, List.map_congr_left fun n hn => congrArg Record.identity (same n hn), List.map_cons]
      by_cases hx : x = (s.record m).identity <;> simp [hx]
    · conv_lhs => rw [frame, one]
      simp [List.filter_filter, Bool.and_comm]

/-! ### The load abandoned (R167) -/

/-- What the abandonment of the load leaves: the load undone, and nothing else touched but the owner's events. -/
structure State.Undoes (s : State) (reason : Reason) (t : State) : Prop where
  abandons : s.abandons t reason id
  others : ∀ n, n ∉ s.load.list → t.record n = s.record n
  frame : t = { s with
    store := { s.store with
      records := t.store.records, damage := t.store.damage,
      nu := s.load.owner.elim s.store.nu fun p => s.store.nu.add p .loadAborted }
    index := t.index
    freeQueue := t.freeQueue
    load := t.load }

theorem Record.kept_of_unmade {r : Record} (h : r.createdByLoad = false) : r.kept = r := by
  cases r
  cases h
  rfl

/-- No port's list and no port's set names a slot that the load holds, so the end of the load's claims leaves them (R104). -/
theorem Cu.discardAll_load (f : s.Filed) : Cu.discardAll s.load.list s = { s with
    store := { s.store with records := (Cu.discardAll s.load.list s).store.records }
    load := { s.load with scheduled := s.load.scheduled.filter (· ∉ s.load.list) } } := by
  obtain ⟨edits, index, queue, nu, damage⟩ := Cu.discardAll_kept (slots := s.load.list) (s := s)
  obtain ⟨lists, load⟩ := Cu.discardAll_lists (slots := s.load.list) (s := s)
  obtain ⟨-, commitLists, scheduled, ⟨-, held⟩, -⟩ := (State.filed_iff.1 f).2.2.2.2
  have stays : ∀ (p : Port) (l : List Nat), (∀ n ∈ l, (s.record n).hold = p.hold) → l.filter (· ∉ s.load.list) = l := fun p l h =>
    List.filter_eq_self.2 fun n hn => decide_eq_true fun loaded => p.hold_ne_load ((h n hn).symm.trans ((held n).1 loaded))
  have port : ∀ p : Port, ((Cu.discardAll s.load.list s).port p).commitList = (s.port p).commitList ∧
      ((Cu.discardAll s.load.list s).port p).scheduled = (s.port p).scheduled := fun p => by
    obtain ⟨commitList, set⟩ := lists p
    rw [commitList, set]
    exact ⟨stays p _ fun n hn => (((commitLists p).2 n).1 hn).1, stays p _ fun n hn => (((scheduled p).2 n).1 hn).1⟩
  obtain ⟨listA, setA⟩ := port .a
  obtain ⟨listB, setB⟩ := port .b
  generalize Cu.discardAll s.load.list s = d at *
  conv_lhs => rw [edits]
  rw [index, queue, nu, damage, load, show d.portA.commitList = s.portA.commitList from listA, show d.portA.scheduled = s.portA.scheduled from setA,
    show d.portB.commitList = s.portB.commitList from listB, show d.portB.scheduled = s.portB.scheduled from setB]

/-- The created records that are placed, which an abandonment keeps (R167). -/
def State.createdPlaced (s : State) : List Nat := s.load.list.filter fun n => (s.record n).createdByLoad && (s.record n).seat.isSome

/-- The steps of an abandonment, with the slots it retires and keeps named from the state before it (R167). -/
theorem Bl.abort_steps (wf : Table.wf Record.blank s.store.records) (reason : Reason) : Bl.abort reason s =
    (s.createdAbsent.length, Bl.close reason s.load.list.length (Bl.settle s.createdPlaced
      (s.createdAbsent.foldl (fun acc n => Rt.retireEvaluated n acc) (Cu.discardAll s.load.list s)))) := by
  have record := (Cu.discardAll_records (slots := s.load.list) wf).2
  have made : ∀ n, ((Cu.discardAll s.load.list s).record n).loadMade = (s.record n).createdByLoad := fun n => by
    rw [record]
    split <;> rfl
  have seat : ∀ n, ((Cu.discardAll s.load.list s).record n).seat = (s.record n).seat := fun n => by
    rw [record]
    split <;> rfl
  have absent : ((s.load.list.filter fun n => ((Cu.discardAll s.load.list s).record n).loadMade).filter fun n =>
      ((Cu.discardAll s.load.list s).record n).seat.isNone) = s.createdAbsent := by
    simp only [made, seat, List.filter_filter, State.createdAbsent, Bool.and_comm]
  have placed : ((s.load.list.filter fun n => ((Cu.discardAll s.load.list s).record n).loadMade).filter fun n =>
      !((Cu.discardAll s.load.list s).record n).seat.isNone) = s.createdPlaced := by
    simp only [made, seat, List.filter_filter, State.createdPlaced, Bool.and_comm, Option.not_isNone]
  rw [← absent, ← placed]
  rfl

theorem Bl.close_eq (reason : Reason) (count : Nat) (s : State) : Bl.close reason count s = { s with
    store := { s.store with nu := s.load.owner.elim s.store.nu fun p => s.store.nu.add p .loadAborted }
    load := { s.load with
      state := .aborted, count := count, list := [], committed := 0, failed := 0, firstFailed := none, reason := reason, scheduled := [] } } := by
  rw [Bl.close]
  cases s.load.owner <;> rfl

/-- A member of the load's list is one of the slots retired, one of those kept, or no record the load has made. -/
theorem State.mem_created (n : Nat) : (n ∈ s.createdAbsent ↔ n ∈ s.load.list ∧ (s.record n).createdByLoad = true ∧ (s.record n).seat = none) ∧
    (n ∈ s.createdPlaced ↔ n ∈ s.load.list ∧ (s.record n).createdByLoad = true ∧ (s.record n).seat ≠ none) := by
  simp [State.createdAbsent, State.createdPlaced, Option.isSome_iff_ne_none]

/-- What an abandonment makes of each slot: a record made and ABSENT goes, and every other of the list is unclaimed and no longer marked as made
(R167). -/
theorem Bl.abort_record {k t : State} (retired : ∀ n, k.record n = if n ∈ s.createdAbsent then Record.blank else
      if n ∈ s.load.list then (s.record n).unclaimed else s.record n)
    (settled : ∀ n, t.record n = if n ∈ s.createdPlaced then (k.record n).kept else k.record n) :
    (∀ n ∈ s.load.list, t.record n =
      if n ∈ s.createdAbsent then Record.blank else { (s.record n).unclaimed with createdByLoad := false }) ∧
    ∀ n, n ∉ s.load.list → t.record n = s.record n := by
  refine ⟨fun n hn => ?_, fun n hn => ?_⟩
  · obtain ⟨absent, placed⟩ := State.mem_created (s := s) n
    rw [settled, retired, if_pos hn]
    by_cases gone : n ∈ s.createdAbsent
    · rw [if_pos gone, if_pos gone, if_neg fun h => (placed.1 h).2.2 (absent.1 gone).2.2]
    · rw [if_neg gone, if_neg gone]
      by_cases stay : n ∈ s.createdPlaced
      · rw [if_pos stay]
        rfl
      · rw [if_neg stay]
        refine (Record.kept_of_unmade (r := (s.record n).unclaimed) (Bool.eq_false_iff.2 fun made => ?_)).symm
        by_cases seat : (s.record n).seat = none
        · exact gone (absent.2 ⟨hn, made, seat⟩)
        · exact stay (placed.2 ⟨hn, made, seat⟩)
  · obtain ⟨absent, placed⟩ := State.mem_created (s := s) n
    rw [settled, retired, if_neg fun h => hn (placed.1 h).1, if_neg fun h => hn (absent.1 h).1, if_neg hn]

/-- Everything an abandonment of the load does (R167). -/
theorem Bl.abort_undoes (f : s.Filed) (reason : Reason) :
    (Bl.abort reason s).1 = s.createdAbsent.length ∧ s.Undoes reason (Bl.abort reason s).2 := by
  obtain ⟨records, index, -⟩ := f.standing.canonical
  have nodup : s.load.list.Nodup := f.lists.load
  have ended := Cu.discardAll_load f
  obtain ⟨wf1, record1⟩ := Cu.discardAll_records (slots := s.load.list) records
  have index1 : (Cu.discardAll s.load.list s).index = s.index := by rw [ended]
  obtain ⟨⟨wf2, -⟩, record2, lookup2, frame2⟩ := Rt.retireAll_retired (s := Cu.discardAll s.load.list s) (slots := s.createdAbsent) wf1
    (by rw [index1]; exact index) (nodup.filter _)
  rw [Bl.abort_steps records]
  refine ⟨rfl, ?_⟩
  dsimp only
  generalize List.foldl _ (Cu.discardAll s.load.list s) s.createdAbsent = s2 at wf2 record2 lookup2 frame2
  have settled : Bl.settle s.createdPlaced s2 = { s2 with store := { s2.store with records := (Bl.settle s.createdPlaced s2).store.records } } :=
    State.modifyAll_store
  have record3 := (State.modifyAll_records (f := Record.kept) (slots := s.createdPlaced) wf2 (nodup.filter _)).2
  rw [← Bl.settle_eq] at record3
  obtain ⟨own, other⟩ := Bl.abort_record (fun n => by rw [record2, record1]) record3
  have lookup : ∀ x, (Bl.settle s.createdPlaced s2).lookup x = s2.lookup x := fun x => by rw [settled]; rfl
  generalize Bl.settle s.createdPlaced s2 = s3 at settled own other lookup
  have index3 : s3.index = s2.index := by rw [settled]
  have frame3 : s3 = { s with
      store := { s.store with records := s3.store.records, damage := s.store.damage.filter fun d => d.slot ∉ s.createdAbsent }
      index := s3.index
      freeQueue := s.freeQueue ++ s.createdAbsent
      load := { s.load with scheduled := s.load.scheduled.filter (· ∉ s.load.list) } } := by
    rw [index3]
    conv_lhs => rw [settled, frame2, ended]
  rw [Bl.close_eq]
  refine ⟨⟨?_, ?_, ?_, fun x => ?_, own⟩, other, ?_⟩
  · rw [frame3]
    rfl
  · rw [frame3]
  · rw [frame3]
  · refine (lookup x).trans ((lookup2 x).trans ?_)
    rw [List.map_congr_left fun n _ => show ((Cu.discardAll s.load.list s).record n).identity = (s.record n).identity by rw [record1]; split <;> rfl,
      State.lookup, index1]
    rfl
  · conv_lhs => rw [frame3]
    conv_rhs => rw [frame3]

/-! ### An abandonment beside a message taken -/

theorem Cu.discardAll_taken {rest : List Message} {slots : List Nat} : Cu.discardAll slots (s.taken p rest) = (Cu.discardAll slots s).taken p rest := by
  induction slots generalizing s with
  | nil => rfl
  | cons n slots ih =>
    rw [Cu.discardAll, List.foldl_cons, Cu.discard_taken]
    exact ih

theorem Rt.retireAll_taken {rest : List Message} {slots : List Nat} : slots.foldl (fun acc n => Rt.retireEvaluated n acc) (s.taken p rest) =
    (slots.foldl (fun acc n => Rt.retireEvaluated n acc) s).taken p rest := by
  induction slots generalizing s with
  | nil => rfl
  | cons n slots ih =>
    rw [List.foldl_cons, Rt.retireEvaluated_taken]
    exact ih

theorem Bl.abort_taken {rest : List Message} (reason : Reason) :
    Bl.abort reason (s.taken p rest) = ((Bl.abort reason s).1, (Bl.abort reason s).2.taken p rest) := by
  refine Prod.ext ?_ ?_
  · simp only [Bl.abort, State.taken_load, State.taken_record, Cu.discardAll_taken]
  · rw [Bl.abort_eq, Bl.abort_eq]
    simp only [State.taken_load, State.taken_record, Cu.discardAll_taken, Rt.retireAll_taken, Bl.settle_eq, State.taken_modifyAll, Bl.close_eq]
    cases p <;> rfl

/-! ### LOAD_ABORT and the load's timer (R166, R169) -/

/-- Settles O47. -/
theorem abortUndoesTheLoad : Obligations.AbortUndoesTheLoad := by
  unfold Obligations.AbortUndoesTheLoad
  intro undone
  have undoes : ∀ {s t : State} {reason : Reason}, s.Undoes reason t → undone s t reason := fun u => ⟨u.abandons, u.others, u.frame⟩
  refine ⟨fun s p tag rest canonical directory h active owner => ?abort, fun s canonical directory active timer => ?timeout, fun s h => ?runs,
    fun s p tag rest h => ⟨fun idle ended => ?noLoad, fun busy owner => ?notPermitted, fun committing owner => ?busy⟩⟩
  case abort =>
    obtain ⟨count, u⟩ := Bl.abort_undoes (State.filed_iff.2 ⟨canonical, directory⟩) .byCommand
    refine ⟨_, ?_, undoes u⟩
    refine congrArg Host.Outcome.next (Cx.command_leaves (r := .ok _) h (by decide) (by nofun) rfl ?_)
    have inProgress : s.load.inProgress = true := by simp [Load.inProgress, active]
    simp only [Bl.abortBody, State.taken_load, inProgress, owner, active, Bl.abort_taken, count, Load.loadedCount, if_true, Bool.not_true,
      Bool.false_eq_true, if_false, ne_eq, not_true_eq_false, reduceCtorEq]
  case timeout =>
    obtain ⟨-, u⟩ := Bl.abort_undoes (State.filed_iff.2 ⟨canonical, directory⟩) .timeout
    exact ⟨_, congrArg Host.Outcome.next (if_pos ⟨active, timer⟩), undoes u⟩
  case runs =>
    exact congrArg Host.Outcome.next (if_neg fun ⟨active, timer⟩ => h.elim (· active) (· timer))
  case noLoad =>
    have idle : s.load.inProgress = false := by simp [Load.inProgress, idle, ended]
    refine congrArg Host.Outcome.next (Cx.command_leaves (r := .bare .noLoad) h (by decide) (by nofun) rfl ?_)
    simp only [Bl.abortBody, State.taken_load, idle, Bool.not_false, if_true]
  case notPermitted =>
    have inProgress : s.load.inProgress = true := by simpa [Load.inProgress] using busy
    refine congrArg Host.Outcome.next (Cx.command_leaves (r := .bare .notPermitted) h (by decide) (by nofun) rfl ?_)
    simp only [Bl.abortBody, State.taken_load, inProgress, Bool.not_true, Bool.false_eq_true, if_false, if_pos owner]
  case busy =>
    have inProgress : s.load.inProgress = true := by simp [Load.inProgress, committing]
    refine congrArg Host.Outcome.next (Cx.command_leaves (r := .bare .busy) h (by decide) (by nofun) rfl ?_)
    simp only [Bl.abortBody, State.taken_load, inProgress, Bool.not_true, Bool.false_eq_true, if_false, owner, ne_eq, not_true_eq_false,
      committing, if_true]

end Sys2Proof.Machine
end

section
/-! PROOF. Record images, and the LOAD_RECORD that fails a check (R162, R167, R168). -/
namespace Sys2Proof.Machine

-- One declaration after another: as one text the file has more of them than it may have threads.
set_option Elab.async false

variable {s : State} {p : Port}

/-! ### A record image read back (R188) -/

section
variable {x batch : Nat} {bank : Bank}

theorem imageBody_recordImage : imageBody (recordImage x batch bank) = beBytes 6 x ++ u16 batch ++ bankImage bank := by
  rw [imageBody, recordImage, List.length_append, halfBytes_length, Nat.add_sub_cancel, List.take_left]

theorem imageBank_recordImage : imageBank (recordImage x batch bank) = bankImage bank := by
  rw [imageBank, imageBody_recordImage, List.drop_left' (by simp)]

theorem recordImage_length : (recordImage x batch bank).length = 49 + 4 * bank.trims.length := by
  rw [recordImage]
  simp only [List.length_append, beBytes_length, u16_length, bankImage_length, halfBytes_length]
  omega

theorem natAt_recordImage (hx : x < 2 ^ 48) : natAt (recordImage x batch bank) 0 6 = x := by
  rw [recordImage]
  simp only [List.append_assoc]
  exact natAt_beBytes (by omega) _

theorem natAt_recordImage_batch (hb : batch < 65536) : natAt (recordImage x batch bank) 6 2 = batch := by
  rw [recordImage]
  simp only [List.append_assoc]
  rw [natAt_append_right (by simp)]
  exact natAt_u16 hb _

theorem crc_recordImage : crc16 (imageBody (recordImage x batch bank)) =
    BitVec.ofNat 16 (natAt (recordImage x batch bank) ((recordImage x batch bank).length - 2) 2) := by
  have last : (recordImage x batch bank).length - 2 = (beBytes 6 x ++ u16 batch ++ bankImage bank).length := by
    rw [recordImage, List.length_append, halfBytes_length, Nat.add_sub_cancel]
  rw [imageBody_recordImage, last, recordImage, natAt_append_right (Nat.le_refl _), Nat.sub_self]
  simpa using (ofNat_natAt_halfBytes (crc16 (beBytes 6 x ++ u16 batch ++ bankImage bank)) []).symm

theorem imageFault_recordImage (h : bank.valid = true) (pos : 0 < x) (hx : x < 2 ^ 48) : imageFault (recordImage x batch bank) = none := by
  rw [imageFault, natAt_recordImage hx, if_neg (by omega), imageBank_recordImage, bankFault_bankImage h]

end

/-! ### The load abandoned, whatever its tables hold (R167) -/

theorem Rt.retireAll_frame (slots : List Nat) (s : State) :
    State.editsOnly s (slots.foldl (fun acc n => Rt.retireEvaluated n acc) s) ∧
      (slots.foldl (fun acc n => Rt.retireEvaluated n acc) s).load = s.load ∧
      (slots.foldl (fun acc n => Rt.retireEvaluated n acc) s).store.nu = s.store.nu ∧
      ∀ n, n ∉ slots → (slots.foldl (fun acc n => Rt.retireEvaluated n acc) s).record n = s.record n := by
  induction slots generalizing s with
  | nil => exact ⟨rfl, rfl, rfl, fun _ _ => rfl⟩
  | cons m slots ih =>
    obtain ⟨edits, load, nu, record⟩ := ih (Rt.retireEvaluated m s)
    rw [List.foldl_cons]
    generalize List.foldl _ (Rt.retireEvaluated m s) slots = t at edits load nu record
    refine ⟨State.editsOnly_trans (t := Rt.retireEvaluated m s) ?_ edits, load.trans ?_, nu.trans ?_, fun n hn => (record n fun h => hn (List.mem_cons_of_mem _ h)).trans
      (Rt.retireEvaluated_record_ne fun e => hn (e ▸ List.mem_cons_self))⟩ <;> rw [Rt.retireEvaluated_eq] <;> rfl

theorem State.modifyAll_record_ne {n : Nat} {slots : List Nat} {f : Record → Record} (h : n ∉ slots) : (s.modifyAll f slots).record n = s.record n := by
  induction slots generalizing s with
  | nil => rfl
  | cons m slots ih =>
    rw [List.mem_cons, not_or] at h
    exact (ih h.2).trans (State.record_modify_ne s h.1)

/-- What an abandonment leaves, whether or not the tables agree: the load ended, its owner notified, no slot outside its list touched. -/
theorem Bl.abort_frame (reason : Reason) (s : State) : State.editsOnly s (Bl.abort reason s).2 ∧
    (Bl.abort reason s).2.load = s.load.abandoned reason ∧
    (Bl.abort reason s).2.store.nu = (s.load.owner.elim s.store.nu fun p => s.store.nu.add p .loadAborted) ∧
    ∀ n, n ∉ s.load.list → (Bl.abort reason s).2.record n = s.record n := by
  rw [Bl.abort_eq]
  dsimp only
  generalize hgoes : List.filter (fun n => ((Cu.discardAll s.load.list s).record n).seat.isNone) _ = goes
  generalize hstays : List.filter (fun n => !((Cu.discardAll s.load.list s).record n).seat.isNone) _ = stays
  obtain ⟨edits1, index, queue, nu1, damage⟩ := Cu.discardAll_kept (slots := s.load.list) (s := s)
  obtain ⟨-, load1⟩ := Cu.discardAll_lists (slots := s.load.list) (s := s)
  have record1 : ∀ n, n ∉ s.load.list → (Cu.discardAll s.load.list s).record n = s.record n := fun n hn => by
    refine foldl_keep (P := fun acc : State => acc.record n = s.record n) _ (fun acc m hm h => ?_) rfl
    exact (Cu.discard_record_ne fun e : n = m => hn (e ▸ hm)).trans h
  obtain ⟨edits2, load2, nu2, record2⟩ := Rt.retireAll_frame goes (Cu.discardAll s.load.list s)
  generalize List.foldl _ (Cu.discardAll s.load.list s) goes = s2 at edits2 load2 nu2 record2
  have edits3 : State.editsOnly s2 (Bl.settle stays s2) := by
    rw [Bl.settle_eq, State.modifyAll_store]
    rfl
  have load3 : (Bl.settle stays s2).load = s2.load := State.modifyAll_load
  have nu3 : (Bl.settle stays s2).store.nu = s2.store.nu := by
    rw [Bl.settle_eq, State.modifyAll_store]
  have record3 : ∀ n, n ∉ s.load.list → (Bl.settle stays s2).record n = s.record n := fun n hn => by
    have gone : n ∉ goes := fun h => by
      rw [← hgoes] at h
      exact hn (List.mem_of_mem_filter (List.mem_of_mem_filter h))
    have stay : n ∉ stays := fun h => by
      rw [← hstays] at h
      exact hn (List.mem_of_mem_filter (List.mem_of_mem_filter h))
    rw [Bl.settle_eq, State.modifyAll_record_ne stay, record2 n gone, record1 n hn]
  have edits := State.editsOnly_trans edits1 (State.editsOnly_trans edits2 edits3)
  generalize Bl.settle stays s2 = s3 at edits load3 nu3 record3
  rw [Bl.close_eq, load3, load2, load1, nu3, nu2, nu1]
  exact ⟨State.editsOnly_trans edits rfl, rfl, rfl, record3⟩

/-! ### LOAD_RECORD that fails (R162, R168) -/

theorem exec_loadRecord : exec .loadRecord s = .next (Cx.command 0x51 false (fun n => decide (49 ≤ n)) Bl.recordBody s) := rfl

theorem exec_loadRecord_of_fail {tag : Byte} {rest : List Message} {payload : List Byte} {reason : Reason} {code : AnswerCode} {items : List Byte} (h : s.takes p 0x51 tag payload rest)
    (len : 49 ≤ payload.length) (body : Bl.recordBody p payload (s.taken p rest) = Bl.fail reason code items (s.taken p rest)) :
    exec .loadRecord s = .next ((Bl.abort reason s).2.answered p rest tag code (BitVec.ofNat 8 reason.code :: items)) := by
  refine congrArg Host.Outcome.next (Cx.command_leaves (r := ⟨code, _⟩) h (by decide) (by nofun) (decide_eq_true len) ?_)
  rw [body, Bl.fail, Bl.abort_taken]
  rfl

section
variable {x batch : Nat} {bank : Bank} {e : IndexEntry}

/-- LOAD_RECORD of a good image, of an identity that has a record (R162). -/
theorem Bl.recordBody_of_known (active : s.load.state = .active) (owner : s.load.owner = some p) (valid : bank.valid = true) (pos : 0 < x)
    (hx : x < 2 ^ 48) (known : s.lookup x = some e) : Bl.recordBody p (recordImage x batch bank) s =
      if (s.record e.slot).hold = .load then Bl.fail .duplicate .exists_ (u16 e.slot) s
      else
        let s := s.read .bl e.slot isStateWord
        let r := s.record e.slot
        if r.hold ≠ .none then Bl.fail .held .held (byteOf r.hold.code) s
        else if !s.zonePass p r.seat then Bl.fail .zone .zone (optU16 r.seat) s
        else Bl.accept e.slot false 0 (recordImage x batch bank) s := by
  unfold Bl.recordBody
  rw [if_neg (by simp [active]), if_neg (by simp [owner])]
  simp only [natAt_recordImage hx, imageFault_recordImage valid pos hx, crc_recordImage, ne_eq, not_true_eq_false, if_false, known]

/-- LOAD_RECORD of a good image, of an identity that has no record and gets none (R162). -/
theorem Bl.recordBody_of_none {t : State} (active : s.load.state = .active) (owner : s.load.owner = some p) (valid : bank.valid = true) (pos : 0 < x)
    (hx : x < 2 ^ 48) (new : s.lookup x = none)
    (hc : Rt.allocateCreate x (natAt (recordImage x batch bank) 6 2) true s = (none, t)) :
    Bl.recordBody p (recordImage x batch bank) s = Bl.fail .poolEmpty .poolEmpty [] s := by
  unfold Bl.recordBody
  rw [if_neg (by simp [active]), if_neg (by simp [owner])]
  simp only [natAt_recordImage hx, imageFault_recordImage valid pos hx, crc_recordImage, ne_eq, not_true_eq_false, if_false, new, hc]

/-- LOAD_RECORD of a good image, of an identity whose record it creates (R162, R163). -/
theorem Bl.recordBody_of_created {t : State} {n retired : Nat} (active : s.load.state = .active) (owner : s.load.owner = some p) (valid : bank.valid = true)
    (pos : 0 < x) (hx : x < 2 ^ 48) (new : s.lookup x = none) (hb : batch < 65536)
    (hc : Rt.allocateCreate x batch true s = (some (n, retired), t)) :
    Bl.recordBody p (recordImage x batch bank) s = Bl.accept n true retired (recordImage x batch bank) t := by
  unfold Bl.recordBody
  rw [if_neg (by simp [active]), if_neg (by simp [owner])]
  simp only [natAt_recordImage hx, natAt_recordImage_batch hb, imageFault_recordImage valid pos hx, crc_recordImage, ne_eq, not_true_eq_false,
    if_false, new, hc]

end

/-- Settles O46. -/
theorem failingLoadRecordAbortsTheLoad : Obligations.FailingLoadRecordAbortsTheLoad := by
  intro s p tag rest payload len h
  refine ⟨fun idle => ?noLoad, fun active owner => ?notPermitted, fun active owner => ?_⟩
  case noLoad =>
    refine congrArg Host.Outcome.next (Cx.command_leaves (r := .bare .noLoad) h (by decide) (by nofun) (decide_eq_true len) ?_)
    rw [Bl.recordBody, State.taken_load, if_pos idle]
  case notPermitted =>
    refine congrArg Host.Outcome.next (Cx.command_leaves (r := .bare .notPermitted) h (by decide) (by nofun) (decide_eq_true len) ?_)
    rw [Bl.recordBody, State.taken_load, if_neg (by simp [active]), if_pos owner]
  intro crc crcGood image aborted
  have fails : ∀ {reason : Reason} {code : AnswerCode} {items : List Byte},
      Bl.recordBody p payload (s.taken p rest) = Bl.fail reason code items (s.taken p rest) → aborted reason code items := by
    intro reason code items body
    obtain ⟨edits, load, nu, record⟩ := Bl.abort_frame reason s
    rw [owner] at nu
    exact ⟨_, exec_loadRecord_of_fail h len body, edits, load, nu, record, fun canonical directory =>
      (Bl.abort_undoes (State.filed_iff.2 ⟨canonical, directory⟩) reason).2.abandons⟩
  have good : crcGood → ¬ crc16 (imageBody payload) ≠ BitVec.ofNat 16 (natAt payload (payload.length - 2) 2) := not_not.2
  have enter : ¬ (s.taken p rest).load.state ≠ .active ∧ ¬ (s.taken p rest).load.owner ≠ some p := by simp [active, owner]
  refine ⟨fun bad => ?crc, fun matches_ zero => ?zero, fun matches_ nonzero none_ => ?bank, fun x batch bank hp valid pos hx => ⟨fun e he => ⟨fun held => ?duplicate,
    fun clean held => ?held, fun seat clean free seated outside => ?zone⟩, fun new none_ => ?poolEmpty⟩⟩
  case crc =>
    refine fails ?_
    rw [Bl.recordBody, if_neg enter.1, if_neg enter.2]
    exact if_pos bad
  case zero =>
    refine fails ?_
    have fault : imageFault payload = some 0 := if_pos zero
    rw [Bl.recordBody, if_neg enter.1, if_neg enter.2]
    dsimp only
    rw [if_neg (good matches_), fault]
    rfl
  case bank =>
    cases fault : bankFault 8 image with
    | none =>
      obtain ⟨bank, valid, same⟩ := exists_bankImage fault
      exact absurd same (none_ bank valid)
    | some field =>
      refine ⟨field, rfl, fails ?_⟩
      have fault : imageFault payload = some field := (if_neg nonzero).trans fault
      rw [Bl.recordBody, if_neg enter.1, if_neg enter.2]
      dsimp only
      rw [if_neg (good matches_), fault]
  all_goals
    subst hp
    refine fails ?_
  case poolEmpty =>
    have none_ : (s.taken p rest).allocatesNone := by simpa [State.allocatesNone, State.mayReclaim] using none_
    refine Bl.recordBody_of_none (t := s.taken p rest) (by rwa [State.taken_load]) (by rwa [State.taken_load]) valid pos hx
      (by rwa [State.taken_lookup]) ?_
    simp only [Rt.allocateCreate, Rt.allocate_of_allocatesNone none_]
  all_goals
    rw [Bl.recordBody_of_known (e := e) (by rwa [State.taken_load]) (by rwa [State.taken_load]) valid pos hx (by rwa [State.taken_lookup])]
  case duplicate => exact if_pos (by rwa [State.taken_record])
  case held =>
    dsimp only
    rw [State.read_clean (State.taken_clean.2 clean), State.taken_record]
    rcases held with held | held <;> rw [if_neg (by simp [held]), if_pos (by simp [held])] <;> rfl
  case zone =>
    dsimp only
    rw [State.read_clean (State.taken_clean.2 clean), State.taken_record, free, if_neg nofun, if_neg (by simp), seated, State.taken_zonePass,
      State.zonePass_eq_false.2 outside]
    rfl

end Sys2Proof.Machine
end

section
/-! PROOF. A read of a slot where one word of the store is damaged, and what COMMIT_RECORD finds so (R115, R148 to R153). -/
namespace Sys2Proof.Machine

-- One declaration after another: as one text the file has more of them than it may have threads.
set_option Elab.async false

variable {s : State} {p : Port} {n : Nat} {st : Store} {cx : Ctx} {rd : Reader} {sel : ArrayWord → Bool} {w : ArrayWord} {bits : List Nat}

/-! ### One damaged word (R148 to R150) -/

/-- A read that does not reach the one damaged word changes nothing. -/
theorem Rt.read_beside {d : Damage} (h : st.damage = [d]) (miss : d.slot ≠ n ∨ sel d.word = false) : Rt.read cx rd n sel st = st := by
  refine Rt.read_sound ?_
  rcases miss with miss | miss <;> simp [Store.found, h, miss]

/-- A read that reaches the one damaged word, with a single bit flipped in it, corrects and counts it (R149). -/
theorem Rt.read_single (h : st.damage = [⟨n, w, bits⟩]) (reached : sel w = true) (single : bits.length < 2) :
    Rt.read cx rd n sel st = { st with damage := [], nu := st.nu.count .sec 1 } := by
  have found : st.found n sel = [⟨n, w, bits⟩] := by simp [Store.found, h, reached]
  have whole : Damage.uncorrectable ⟨n, w, bits⟩ = false := by simp [Damage.uncorrectable, single]
  have corrected : st.correct n sel = { st with damage := [], nu := st.nu.count .sec 1 } := by
    simp only [Store.correct, found, List.filter_cons, whole, List.filter_nil, h, Bool.not_false, if_true, List.length_singleton, reached]
    simp [Store.count, Store.onNu]
  have none_ : ({ st with damage := [], nu := st.nu.count .sec 1 } : Store).doubles n sel = [] := rfl
  rw [Rt.read, found, if_neg (by simp), corrected]
  dsimp only
  rw [none_, if_pos rfl]

/-- A read that reaches the one damaged word, with more bits flipped in it, takes its consequences (R150). -/
theorem Rt.read_double (h : st.damage = [⟨n, w, bits⟩]) (reached : sel w = true) (double : 2 ≤ bits.length) : Rt.read cx rd n sel st =
    if (st.get n).inUse then Rt.consequences cx rd n [⟨n, w, bits⟩] st
    else { st with damage := [], finding := some ⟨cx.frame, n, .freeSlot, rd⟩, nu := st.nu.count .ded 1 } := by
  have found : st.found n sel = [⟨n, w, bits⟩] := by simp [Store.found, h, reached]
  have lost : Damage.uncorrectable ⟨n, w, bits⟩ = true := by simp [Damage.uncorrectable, double]
  have same : st.correct n sel = st := by simp [Store.correct, found, lost]
  have doubles : st.doubles n sel = [⟨n, w, bits⟩] := by simp [Store.doubles, found, lost]
  rw [Rt.read, found, if_neg (by simp), same]
  dsimp only
  rw [doubles, if_neg (by simp)]
  split
  · rfl
  · simp [Store.foundDouble, Store.count, Store.onNu, Store.mend, h, reached]

/-- The consequence of a damaged word in the pending bank of a record (R153). -/
theorem Rt.consequences_pending {g : Group} {i : Nat} (hw : w = .bank (st.get n).pendingIx g i) :
    Rt.consequences cx rd n [⟨n, w, bits⟩] st = Rt.pendingFound n [⟨n, w, bits⟩] (st.foundDouble cx rd n .pendingBank 1) := by
  subst hw
  have other : ((st.get n).active == (st.get n).pendingIx) = false := by cases h : (st.get n).active <;> simp [Record.pendingIx, h, BankIx.other]
  simp [Rt.consequences, isIdentityWord, isStateWord, isBankWord, isDriftWord, other]

/-- A claimed pending bank found damaged is marked so (R153). -/
theorem Rt.pendingFound_claimed {words : List Damage} (claimed : (st.get n).hold ≠ .none) :
    Rt.pendingFound n words st = st.modify n fun r => { r with pendingDamaged := true } := by
  rw [Rt.pendingFound, if_neg claimed]
  rfl

/-! ### COMMIT_RECORD (R115) -/

/-- What COMMIT_RECORD does once the pending bank has been read. -/
theorem Cu.commitBody_of_read {t : State} {payload : List Byte} {bank : Bank} (own : s.Owns p payload n) (opened : (s.record n).condition = .opened)
    (zone : s.zonePass p (s.record n).seat = true) (read : Cu.readPendingBank n s = (bank, t)) :
    ((t.record n).pendingDamaged = true ∨ bankCrc bank ≠ BitVec.ofNat 16 (natAt payload 2 2) →
      Cu.commitBody p payload s = (⟨.check, halfBytes (bankCrc bank) ++ flagByte (t.record n).pendingDamaged⟩, t)) ∧
    ((t.record n).pendingDamaged = false → bankCrc bank = BitVec.ofNat 16 (natAt payload 2 2) → Cu.commitBody p payload s =
      (.ok (beBytes 4 t.nextFrame.toNat), Cu.schedule p n (t.modify n fun r => { r with expectedCrc := BitVec.ofNat 16 (natAt payload 2 2) }))) := by
  rw [Cu.commitBody, own.enter]
  simp only [opened, zone, Bool.not_true, Bool.false_eq_true, if_false, read]
  exact ⟨fun bad => if_pos bad, fun undamaged good => by
    rw [if_neg (by simp [undamaged, good])]
    cases p <;> rfl⟩

theorem Cu.schedule_taken {rest : List Message} : Cu.schedule p n (s.taken p rest) = (Cu.schedule p n s).taken p rest := by cases p <;> rfl

theorem Cu.schedule_checked {crc : Half} (wf : Table.wf Record.blank s.store.records) :
    Cu.schedule p n (s.modify n fun r => { r with expectedCrc := crc }) =
      (s.modify n fun r => { r with condition := .scheduled, expectedCrc := crc }).onPort p fun q =>
        { q with scheduled := insertNat n q.scheduled } := by
  rw [Cu.schedule, State.modify_modify wf]

/-- Settles O34. -/
theorem commitRecordSchedulesOnAMatchingCrc : Obligations.CommitRecordSchedulesOnAMatchingCrc := by
  -- A command whose read of the pending bank leaves `t` and gives a bank.
  have commits : ∀ {s t : State} {p : Port} {tag : Byte} {rest : List Message} {n : Nat} {crc : Half} {bank : Bank},
      n ≤ 2047 → (s.record n).inUse = true → s.takes p 0x34 tag (u16 n ++ halfBytes crc) rest → (s.record n).hold = p.hold →
      (s.record n).condition = .opened → s.zonePass p (s.record n).seat = true →
      Cu.readPendingBank n (s.taken p rest) = (bank, t.taken p rest) →
      ((t.record n).pendingDamaged = true ∨ bankCrc bank ≠ crc → exec .commitRecord s = .next
        (t.answered p rest tag .check (halfBytes (bankCrc bank) ++ flagByte (t.record n).pendingDamaged))) ∧
      (Table.wf Record.blank t.store.records → (t.record n).pendingDamaged = false → bankCrc bank = crc → exec .commitRecord s = .next
        (((t.modify n fun r => { r with condition := .scheduled, expectedCrc := crc }).onPort p fun q =>
          { q with scheduled := insertNat n q.scheduled }).answered p rest tag .ok (beBytes 4 (t.ftu.frameCount + 1).toNat))) := by
    intro s t p tag rest n crc bank hn inUse h hold opened zone read
    have own : s.Owns p (u16 n ++ halfBytes crc) n := ⟨natAt_u16 (by omega) _, hn, inUse, hold⟩
    obtain ⟨bad, good⟩ := Cu.commitBody_of_read (own.taken (rest := rest)) (by rwa [State.taken_record])
      (by rwa [State.taken_record, State.taken_zonePass]) read
    simp only [State.taken_record, crcOperand] at bad good
    refine ⟨fun hb => congrArg Host.Outcome.next (Cx.command_leaves h (by decide) (by nofun) rfl (bad hb)), fun wf undamaged hc => ?_⟩
    refine congrArg Host.Outcome.next (Cx.command_leaves (r := .ok _) h (by decide) (by nofun) rfl ((good undamaged hc).trans ?_))
    rw [State.modify_taken, Cu.schedule_taken, Cu.schedule_checked wf, State.nextFrame, State.taken_ftu]
    rfl
  refine ⟨fun s p tag rest n crc canonical clean hn inUse h hold opened zone undamaged => ?clean,
    fun s p tag rest n crc g i bits canonical damage hn inUse h hold opened zone => ⟨fun bit one undamaged good => ?single, fun double => ?double⟩⟩
  case clean =>
    have read : Cu.readPendingBank n (s.taken p rest) = ((s.record n).pendingBank, s.taken p rest) := by
      rw [Cu.readPendingBank_clean (State.taken_clean.2 clean), State.taken_record]
    obtain ⟨bad, good⟩ := commits hn inUse h hold opened zone read
    rw [undamaged] at bad
    exact ⟨good canonical.1 undamaged, fun hc => bad (.inr hc)⟩
  case single =>
    have read : Cu.readPendingBank n (s.taken p rest) = ((s.record n).pendingBank,
        ({ s with store := { s.store with damage := [], nu := Nu.count .sec 1 s.store.nu } } : State).taken p rest) := by
      have corrected : (s.taken p rest).read .cu n (isBankWord (s.record n).pendingIx) =
          ({ s with store := { s.store with damage := [], nu := Nu.count .sec 1 s.store.nu } } : State).taken p rest := by
        rw [State.read, State.onStore, State.taken_store, Rt.read_single damage (by simp [isBankWord, Record.pendingIx]) (by simp [one])]
        cases p <;> rfl
      rw [Cu.readPendingBank, State.taken_record, corrected, State.taken_store, Store.bankRead_clean rfl, State.taken_record]
      rfl
    exact (commits hn inUse h hold opened zone read).2 canonical.1 undamaged good
  case double =>
    let t : State := ({ s with store := { s.store with
      finding := some ⟨s.ftu.frameCount, n, .pendingBank, .cu⟩, nu := Nu.count .ded 1 s.store.nu } } : State).modify n fun r =>
        { r with pendingDamaged := true }
    have found : (s.taken p rest).read .cu n (isBankWord (s.record n).pendingIx) = t.taken p rest := by
      rw [State.read, State.onStore, State.taken_store, Rt.read_double damage (by simp [isBankWord, Record.pendingIx]) double,
        if_pos (by exact inUse), Rt.consequences_pending (w := .bank (s.record n).active.other g i) rfl,
        Rt.pendingFound_claimed (by rw [show ((s.store.foundDouble _ _ _ _ _).get n).hold = (s.record n).hold from rfl, hold]; exact p.hold_ne_none)]
      cases p <;> rfl
    have read : Cu.readPendingBank n (s.taken p rest) =
        (t.store.bankRead n (s.record n).pendingIx (t.record n).pendingBank, t.taken p rest) := by
      rw [Cu.readPendingBank, State.taken_record, found, State.taken_store, State.taken_record]
    have own : t.record n = { s.record n with pendingDamaged := true } := State.record_modify_same _ canonical.1
    refine ⟨t, bankCrc (t.store.bankRead n (s.record n).pendingIx (t.record n).pendingBank), ?_, rfl, own, fun k hk => State.record_modify_ne _ hk⟩
    have bad := (commits hn inUse h hold opened zone read).1 (.inl (by rw [own]))
    rw [bad]
    simp only [own]
    rfl

end Sys2Proof.Machine
end

section
/-! PROOF. Seats emptied and taken in a store without errors: PLACE_SEAT, VACATE_SEAT and LOST (R31, R37, R39, R45 to R47). -/
namespace Sys2Proof.Machine

-- One declaration after another: as one text the file has more of them than it may have threads.
set_option Elab.async false

variable {s : State} {n k seat : Nat} {keep : Option Nat} {e : Seat}

/-! ### What a placement touches -/

@[simp] theorem State.modify_clean {f : Record → Record} : (s.modify n f).clean ↔ s.clean := Iff.rfl
@[simp] theorem State.modify_seat {f : Record → Record} : (s.modify n f).seat k = s.seat k := rfl
@[simp] theorem State.setSeat_clean : (s.setSeat n e).clean ↔ s.clean := Iff.rfl
@[simp] theorem State.setSeat_record : (s.setSeat n e).record k = s.record k := rfl

theorem State.modify_wf {f : Record → Record} (h : Table.wf Record.blank s.store.records) : Table.wf Record.blank (s.modify n f).store.records := Store.modify_records_wf h

theorem State.seat_setSeat (wf : Table.wf Seat.vacant s.seats) : (s.setSeat n e).seat k = if k = n then e else s.seat k := by
  split
  · rename_i h
    rw [h]
    exact State.seat_setSeat_same s wf
  · rename_i h
    exact State.seat_setSeat_ne s h

theorem State.setSeat_taken {p : Port} {rest : List Message} : (s.taken p rest).setSeat n e = (s.setSeat n e).taken p rest := by cases p <;> rfl

/-! ### What a seat held, displaced (R37) -/

/-- A record that has left its seat (R37, R87). -/
def Record.absent (r : Record) : Record := { r with seat := none, theta := none }

theorem Pu.makeAbsent_eq (clean : s.clean) (wf : Table.wf Record.blank s.store.records) : Pu.makeAbsent n s = s.modify n Record.absent := by
  rw [Pu.makeAbsent_clean clean, State.modify_modify wf]
  rfl

/-- The slot that a displacement at a seat makes ABSENT (R37). -/
def State.displaced (s : State) (seat : Nat) (keep : Option Nat) : Option Nat :=
  match (s.seat seat).kind with
  | .placed slot => if keep = some slot then none else some slot
  | _ => none

theorem State.displaced_eq_some : s.displaced seat keep = some n ↔ (s.seat seat).kind = .placed n ∧ keep ≠ some n := by
  unfold State.displaced
  cases h : (s.seat seat).kind with
  | placed slot =>
    by_cases hk : keep = some slot
    · simp only [if_pos hk, reduceCtorEq, false_iff]
      rintro ⟨he, hn⟩
      cases he
      exact hn hk
    · simp only [if_neg hk, Option.some.injEq, SeatKind.placed.injEq]
      constructor
      · rintro rfl
        exact ⟨rfl, hk⟩
      · exact fun he => he.1
  | vacant => simp
  | unrecorded x b => simp

@[simp] theorem State.taken_displaced {p : Port} {rest : List Message} : (s.taken p rest).displaced seat keep = s.displaced seat keep := by simp [State.displaced]

/-- In a store without errors a displacement makes one record ABSENT, or changes nothing (R37). -/
theorem Pu.displace_eq (clean : s.clean) (wf : Table.wf Record.blank s.store.records) :
    Pu.displace seat keep s = (s.displaced seat keep).elim s fun n => s.modify n Record.absent := by
  unfold Pu.displace State.displaced
  cases (s.seat seat).kind with
  | placed slot =>
    by_cases hk : keep = some slot
    · simp only [if_pos hk, Option.elim_none]
    · simp only [if_neg hk, Option.elim_some, Pu.makeAbsent_eq clean wf]
  | vacant => rfl
  | unrecorded x b => rfl

theorem Pu.displace_record (clean : s.clean) (wf : Table.wf Record.blank s.store.records) :
    (Pu.displace seat keep s).record k = if s.displaced seat keep = some k then (s.record k).absent else s.record k := by
  rw [Pu.displace_eq clean wf]
  cases s.displaced seat keep with
  | none => rfl
  | some m => rw [Option.elim_some, State.record_modify wf]; simp only [Option.some.injEq, eq_comm]

theorem Pu.displace_frame (clean : s.clean) (wf : Table.wf Record.blank s.store.records) :
    Pu.displace seat keep s = { s with store := { s.store with records := (Pu.displace seat keep s).store.records } } := by
  rw [Pu.displace_eq clean wf]
  cases s.displaced seat keep <;> rfl

theorem Pu.displace_wf (clean : s.clean) (wf : Table.wf Record.blank s.store.records) :
    Table.wf Record.blank (Pu.displace seat keep s).store.records := by
  rw [Pu.displace_eq clean wf]
  cases s.displaced seat keep with
  | none => exact wf
  | some m => exact State.modify_wf wf

theorem Pu.displace_isClean (clean : s.clean) (wf : Table.wf Record.blank s.store.records) : (Pu.displace seat keep s).clean := by
  rw [Pu.displace_frame clean wf]
  exact clean

theorem Pu.displace_taken {p : Port} {rest : List Message} (clean : s.clean) (wf : Table.wf Record.blank s.store.records) :
    Pu.displace seat keep (s.taken p rest) = (Pu.displace seat keep s).taken p rest := by
  rw [Pu.displace_eq (State.taken_clean.2 clean) (by rwa [State.taken_store]), Pu.displace_eq clean wf, State.taken_displaced]
  cases s.displaced seat keep with
  | none => rfl
  | some m => exact State.modify_taken

/-! ### A seat emptied (R39, R47) -/

/-- What a seat emptied leaves: it VACANT, its occupant ABSENT, and nothing else touched. -/
structure State.Empties (s : State) (seat : Nat) (t : State) : Prop where
  frame : t = { s with seats := t.seats, store := { s.store with records := t.store.records } }
  vacant : t.seat seat = Seat.vacant
  others : ∀ k, k ≠ seat → t.seat k = s.seat k
  occupant : ∀ n, (s.seat seat).kind = .placed n → t.record n = (s.record n).absent
  records : ∀ n, (s.seat seat).kind ≠ .placed n → t.record n = s.record n

theorem Pu.empty_empties (clean : s.clean) (canonical : s.canonical) : s.Empties seat (Pu.empty seat s) := by
  obtain ⟨records, -, -, seats, -⟩ := canonical
  have frame := Pu.displace_frame (seat := seat) (keep := none) clean records
  have record := fun k => Pu.displace_record (seat := seat) (keep := none) (k := k) clean records
  have entry : ∀ k, (Pu.empty seat s).seat k = if k = seat then Seat.vacant else s.seat k := fun k => by
    rw [Pu.empty, frame]
    exact State.seat_setSeat seats
  refine ⟨?_, by rw [entry, if_pos rfl], fun k hk => by rw [entry, if_neg hk], fun n hn => ?_, fun n hn => ?_⟩
  · rw [Pu.empty, frame]
    rfl
  · exact (record n).trans (if_pos (State.displaced_eq_some.2 ⟨hn, by simp⟩))
  · exact (record n).trans (if_neg fun h => hn (State.displaced_eq_some.1 h).1)

theorem Pu.gap_seat (wf : Table.wf Seat.vacant s.seats) (d : Nat) : (Pu.gap d s).seat k =
    if k / 96 = d ∧ (s.seat k).kind ≠ .vacant ∧ (s.seat k).origin = .reported then { s.seat k with fresh := .unconfirmed } else s.seat k := by
  have entry : (Pu.gap d s).seat k = if k / 96 = d then (s.seat k).gapped else s.seat k :=
    Table.get_mapEntries (f := fun n (e : Seat) => if n / 96 = d then e.gapped else e) (by split <;> rfl) wf
  rw [entry, Seat.gapped]
  split_ifs <;> tauto

theorem Pu.gap_canonical (canonical : s.canonical) (d : Nat) : (Pu.gap d s).canonical := by
  obtain ⟨records, index, batches, seats, more⟩ := canonical
  exact ⟨records, index, batches, Table.wf_mapEntries (f := fun n (e : Seat) => if n / 96 = d then e.gapped else e) seats, more⟩

theorem exec_lost_of_head {r : Report} {queue : List Report} (head : s.trl.queue = r :: queue) (lost : r.kind = .lost) :
    exec .lost s = .next (Pu.empty (r.distPort * 96 + r.chain)
      (if r.gap then Pu.gap r.distPort { s with trl := { s.trl with queue := queue } } else { s with trl := { s.trl with queue := queue } })) := by
  refine congrArg Host.Outcome.next ?_
  simp only [Pu.takeHead, head, lost, ReportKind.isLost, if_true, Pu.handle]
  rfl

/-- Settles O23. -/
theorem vacateSeatAndLostEmptyTheSeat : Obligations.VacateSeatAndLostEmptyTheSeat := by
  unfold Obligations.VacateSeatAndLostEmptyTheSeat
  intro emptied
  have empties : ∀ {s t : State} {seat : Nat}, s.Empties seat t → emptied s t seat := fun h => ⟨h.frame, h.vacant, h.others, h.occupant, h.records⟩
  refine ⟨fun s p tag rest seat canonical clean hs h => ?vacate, fun s p tag rest seat bad hs h => ?refused,
    fun s r queue canonical clean head lost whole => ?lost, fun s r queue canonical clean head lost gap => ?gap⟩
  case vacate =>
    refine ⟨Pu.empty seat s, ?_, empties (Pu.empty_empties clean canonical)⟩
    refine congrArg Host.Outcome.next (Cx.command_leaves (r := .ok (s.seat seat).kind.bytes) h (by decide) (by nofun) rfl ?_)
    simp only [Pu.vacateBody, natAt_u16_alone (show seat < 65536 by omega), if_neg (Nat.not_lt.2 hs), State.taken_seat, Pu.empty,
      Pu.displace_taken clean canonical.1, State.setSeat_taken]
  case refused =>
    refine congrArg Host.Outcome.next (Cx.command_leaves (r := .badField 0) h (by decide) (by nofun) rfl ?_)
    simp only [Pu.vacateBody, natAt_u16_alone hs, if_pos bad]
  case lost =>
    refine ⟨_, exec_lost_of_head head lost, ?_⟩
    rw [whole]
    exact empties (Pu.empty_empties (s := { s with trl := { s.trl with queue := queue } }) clean canonical)
  case gap =>
    intro seat
    let marked := Pu.gap r.distPort { s with trl := { s.trl with queue := queue } }
    have entry : ∀ k, marked.seat k = _ := fun k => Pu.gap_seat (s := { s with trl := { s.trl with queue := queue } }) canonical.2.2.2.1 r.distPort
    have kind : (marked.seat seat).kind = (s.seat seat).kind := by
      rw [entry]
      split <;> rfl
    have h : marked.Empties seat (Pu.empty seat marked) := Pu.empty_empties clean (Pu.gap_canonical (by exact canonical) _)
    refine ⟨Pu.empty seat marked, ?_, h.frame, h.vacant, fun k hk => (h.others k hk).trans (entry k), fun n hn => h.occupant n (by rwa [kind]),
      fun n hn => h.records n (by rwa [kind])⟩
    rw [exec_lost_of_head head lost, gap]
    rfl

/-! ### PLACE_SEAT (R45, R46) -/

/-- Settles O22. -/
theorem placeSeatPlacesAnAbsentRecord : Obligations.PlaceSeatPlacesAnAbsentRecord := by
  have operands : ∀ {seat n : Nat}, seat < 65536 → n < 65536 → natAt (u16 seat ++ u16 n) 0 2 = seat ∧ natAt (u16 seat ++ u16 n) 2 2 = n :=
    fun hs hn => ⟨natAt_u16 hs _, by rw [natAt_append_right (by simp)]; exact natAt_u16_alone hn⟩
  refine ⟨fun s tag rest seat n canonical clean hs hn inUse h => ?_, fun s tag rest seat n hs hn h =>
    ⟨fun bad => ?badSeat, fun low bad => ?badSlot, fun low small free => ?free⟩⟩
  · obtain ⟨atSeat, atSlot⟩ := operands (show seat < 65536 by omega) (show n < 65536 by omega)
    obtain ⟨records, -, -, seats, -⟩ := id canonical
    have occupied : ∀ k, (s.record n).seat = some k → Pu.placeBody .a (u16 seat ++ u16 n) (s.taken .a rest) =
        if k = seat then (.ok [0], (s.taken .a rest).setSeat seat ⟨.placed n, .manual, .fresh, 0⟩)
        else (⟨.placed, u16 k⟩, s.taken .a rest) := fun k hk => by
      simp only [Pu.placeBody, atSeat, atSlot, if_neg (Nat.not_lt.2 hs), if_neg (Nat.not_lt.2 hn), State.taken_record, inUse, Bool.not_true,
        Bool.false_eq_true, if_false, hk, SeatKind.bytes]
    refine ⟨fun absent vacated => ?places, fun here => ?here, fun k elsewhere hk => ?elsewhere⟩
    case places =>
      have kept : s.displaced seat none ≠ some n := fun hd => vacated n (State.displaced_eq_some.1 hd).1 rfl
      have wf := Pu.displace_wf (seat := seat) (keep := none) clean records
      have record := fun k => Pu.displace_record (seat := seat) (keep := none) (k := k) clean records
      have own : (Pu.displace seat none s).record n = s.record n := (record n).trans (if_neg kept)
      refine ⟨((Pu.displace seat none s).modify n fun r => { r with seat := some seat, lastSeen := s.ftu.frameCount }).setSeat seat
        ⟨.placed n, .manual, .fresh, 0⟩, ?_, ?_, ?_, fun k hk => ?_, ?_, fun k hk => ?_, fun k hk hne => ?_⟩
      · refine congrArg Host.Outcome.next (Cx.command_leaves (r := .ok (s.seat seat).kind.bytes) h (by decide) (fun _ => rfl) rfl ?_)
        simp only [Pu.placeBody, atSeat, atSlot, if_neg (Nat.not_lt.2 hs), if_neg (Nat.not_lt.2 hn), State.taken_record, inUse, Bool.not_true,
          Bool.false_eq_true, if_false, absent, State.taken_seat, Pu.displace_taken clean records, State.writeStateWord_clean (State.taken_clean.2 (Pu.displace_isClean clean records)),
          State.modify_taken, State.setSeat_taken, State.taken_ftu]
        rw [Pu.displace_frame clean records]
      · rw [Pu.displace_frame clean records]
        rfl
      · rw [State.seat_setSeat (by rw [Pu.displace_frame clean records]; exact seats), if_pos rfl]
      · rw [State.seat_setSeat_ne _ hk, State.modify_seat, Pu.displace_frame clean records]
        rfl
      · rw [State.setSeat_record, State.record_modify_same _ wf, own]
      · have hne : k ≠ n := vacated k hk
        rw [State.setSeat_record, State.record_modify_ne _ hne, record, if_pos (State.displaced_eq_some.2 ⟨hk, by simp⟩)]
        rfl
      · rw [State.setSeat_record, State.record_modify_ne _ hk, record, if_neg fun hd => hne (State.displaced_eq_some.1 hd).1]
    case here =>
      refine congrArg Host.Outcome.next (Cx.command_leaves (r := .ok [0]) h (by decide) (fun _ => rfl) rfl ?_)
      rw [occupied seat here]
      exact (if_pos rfl).trans (by rw [State.setSeat_taken]; rfl)
    case elsewhere =>
      refine congrArg Host.Outcome.next (Cx.command_leaves (r := ⟨.placed, u16 k⟩) h (by decide) (fun _ => rfl) rfl ?_)
      rw [occupied k elsewhere]
      exact if_neg hk
  all_goals
    obtain ⟨atSeat, atSlot⟩ := operands hs hn
  case badSeat =>
    refine congrArg Host.Outcome.next (Cx.command_leaves (r := .badField 0) h (by decide) (fun _ => rfl) rfl ?_)
    simp only [Pu.placeBody, atSeat, if_pos bad]
  case badSlot =>
    refine congrArg Host.Outcome.next (Cx.command_leaves (r := .badField 2) h (by decide) (fun _ => rfl) rfl ?_)
    simp only [Pu.placeBody, atSeat, atSlot, if_neg (Nat.not_lt.2 low), if_pos bad]
  case free =>
    refine congrArg Host.Outcome.next (Cx.command_leaves (r := .bare .noRecord) h (by decide) (fun _ => rfl) rfl ?_)
    simp only [Pu.placeBody, atSeat, atSlot, if_neg (Nat.not_lt.2 low), if_neg (Nat.not_lt.2 small), State.taken_record, free, Bool.not_false,
      if_true]

end Sys2Proof.Machine
end

section
/-! PROOF. Event kinds added, and recomputes of many records in a store without errors (R8, R89 to R91, R95, R97, R190). -/
namespace Sys2Proof.Machine

-- One declaration after another: as one text the file has more of them than it may have threads.
set_option Elab.async false

/-! ### Event kinds (R190) -/

section
variable {n : Nu} {p q : Port} {e k : Event} {kinds : List Event}

theorem Event.number_lt (e : Event) : e.number < 15 := by cases e <;> decide

theorem Event.number_inj : e.number = k.number ↔ e = k := by
  have at_number : ∀ e : Event, Event.kinds[e.number]? = some e := fun e => by cases e <;> rfl
  exact ⟨fun h => Option.some.inj ((at_number e).symm.trans (h ▸ at_number k)), congrArg _⟩

@[simp] theorem Nu.add_attached : (n.add p e).attached q = n.attached q := by
  simp only [Nu.add]
  split
  · cases p <;> rfl
  · rfl

@[simp] theorem Nu.add_attachB : (n.add p e).attachB = n.attachB := Nu.add_attached (q := .b)

@[simp] theorem Nu.add_enabled : ((n.add p e).sets q).enabled = (n.sets q).enabled := by
  simp only [Nu.add]
  split
  · cases p <;> cases q <;> rfl
  · rfl

/-- What is pending after one kind has been added at one port (R189, R190). -/
theorem Nu.add_pending : ((n.add p e).sets q).pending.getLsbD k.number = true ↔
    (n.sets q).pending.getLsbD k.number = true ∨ (n.attached p = true ∧ q = p ∧ k = e) := by
  by_cases attached : n.attached p = true
  · by_cases hq : q = p
    · subst hq
      have sets : (n.add q e).sets q = (n.sets q).add e := by
        rw [Nu.add, if_pos attached]
        cases q <;> rfl
      rw [sets, EventSets.add, BitVec.getLsbD_or, Event.mask, BitVec.getLsbD_twoPow]
      simp [attached, e.number_lt, ← Event.number_inj, eq_comm (a := k.number)]
    · have sets : (n.add p e).sets q = n.sets q := by
        rw [Nu.add, if_pos attached]
        cases p <;> cases q <;> first | rfl | exact absurd rfl hq
      simp [sets, hq]
  · rw [Nu.add, if_neg attached]
    simp [attached]

@[simp] theorem Nu.addBoth_attached : (n.addBoth e).attached q = n.attached q := by simp [Nu.addBoth]

theorem Nu.addBoth_pending : ((n.addBoth e).sets q).pending.getLsbD k.number = true ↔
    (n.sets q).pending.getLsbD k.number = true ∨ (n.attached q = true ∧ k = e) := by
  rw [Nu.addBoth, Nu.add_pending, Nu.add_pending, Nu.add_attached]
  cases q <;> simp [Nu.attached]

theorem EventSets.add_add (x : EventSets) : (x.add e).add e = x.add e := by simp [EventSets.add, BitVec.or_assoc]

@[simp] theorem Nu.addBoth_addBoth : (n.addBoth e).addBoth e = n.addBoth e := by
  simp only [Nu.addBoth, Nu.add, Nu.attached, Nu.setSets, Nu.sets, if_true]
  cases n.attachB <;> simp [EventSets.add_add]

theorem Nu.gains_refl : n.gains kinds n := ⟨rfl, rfl, fun _ => ⟨rfl, fun _ => ⟨id, .inl⟩⟩⟩

theorem Nu.gains.trans {m o : Nu} (h : n.gains kinds m) (g : m.gains kinds o) : n.gains kinds o :=
  ⟨g.1.trans h.1, g.2.1.trans h.2.1, fun p => ⟨(g.2.2 p).1.trans (h.2.2 p).1, fun e =>
    ⟨fun he => ((g.2.2 p).2 e).1 (((h.2.2 p).2 e).1 he), fun he => (((g.2.2 p).2 e).2 he).elim ((h.2.2 p).2 e).2 .inr⟩⟩⟩

theorem Nu.gains.mono {m : Nu} {more : List Event} (h : n.gains kinds m) (sub : kinds ⊆ more) : n.gains more m :=
  ⟨h.1, h.2.1, fun p => ⟨(h.2.2 p).1, fun e => ⟨((h.2.2 p).2 e).1, fun he => (((h.2.2 p).2 e).2 he).imp id fun x => sub x⟩⟩⟩

theorem Nu.gains_add (h : e ∈ kinds) : n.gains kinds (n.add p e) :=
  ⟨Nu.add_counters p e n, Nu.add_attachB, fun _ => ⟨Nu.add_enabled, fun _ =>
    ⟨fun hk => Nu.add_pending.2 (.inl hk), fun hk => (Nu.add_pending.1 hk).imp id fun ⟨_, _, same⟩ => same ▸ h⟩⟩⟩

theorem Nu.gains_addBoth (h : e ∈ kinds) : n.gains kinds (n.addBoth e) := (Nu.gains_add h).trans (Nu.gains_add h)

theorem Nu.gains_ite {c : Prop} [Decidable c] (h : e ∈ kinds) : n.gains kinds (if c then n.addBoth e else n) := by
  split
  · exact Nu.gains_addBoth h
  · exact Nu.gains_refl

theorem Nu.adds_ite {c : Prop} [Decidable c] : n.adds (if c then n.addBoth e else n) e c := fun p => by
  rw [Nu.addsAt]
  split
  · rw [Nu.addBoth_pending]
    simp [*]
  · simp [*]

end

/-! ### Work that moves ceiling flags (R90) -/

variable {s : State} {st : Store} {n : Nat} {cx : Ctx} {after : After} {bank : Bank} {f : Nat → Store → Store} {g : Nat → Record → Record}

/-- Whether some ceiling flag has moved from clear to set. -/
def Store.rises (st st' : Store) : Prop := ∃ n, (st.get n).ceiling = false ∧ (st'.get n).ceiling = true

/-- Work on single slots that changes its own slot alone and adds CEILING exactly where it moves the ceiling flag from clear to set (R90). -/
structure Recomputes (f : Nat → Store → Store) (g : Nat → Record → Record) : Prop extends Pointwise f g where
  nu : ∀ n st, st.Ready → (f n st).nu =
    if (st.get n).ceiling = false ∧ (g n (st.get n)).ceiling = true then st.nu.addBoth .ceiling else st.nu
  frame : ∀ n st, st.Ready → f n st = { st with records := (f n st).records, nu := (f n st).nu }

open Classical in
/-- Work over a list of slots: CEILING is added where some flag rises. -/
theorem Recomputes.fold (h : Recomputes f g) (slots : List Nat) (nodup : slots.Nodup) (ready : st.Ready) :
    (slots.foldl (fun acc n => f n acc) st).nu =
        (if ∃ n ∈ slots, (st.get n).ceiling = false ∧ (g n (st.get n)).ceiling = true then st.nu.addBoth .ceiling else st.nu) ∧
      slots.foldl (fun acc n => f n acc) st = { st with
        records := (slots.foldl (fun acc n => f n acc) st).records, nu := (slots.foldl (fun acc n => f n acc) st).nu } := by
  induction slots generalizing st with
  | nil => exact ⟨by simp, rfl⟩
  | cons m slots ih =>
    rw [List.nodup_cons] at nodup
    obtain ⟨nu, frame⟩ := ih nodup.2 (h.ready m st ready)
    rw [List.foldl_cons]
    generalize List.foldl _ (f m st) slots = u at nu frame
    have same : ∀ n ∈ slots, (f m st).get n = st.get n := fun n hn => h.other m st n ready fun e => nodup.1 (e ▸ hn)
    have later : (∃ n ∈ slots, ((f m st).get n).ceiling = false ∧ (g n ((f m st).get n)).ceiling = true) ↔
        ∃ n ∈ slots, (st.get n).ceiling = false ∧ (g n (st.get n)).ceiling = true :=
      exists_congr fun n => and_congr_right fun hn => by rw [same n hn]
    refine ⟨?_, ?_⟩
    · rw [nu, h.nu m st ready]
      by_cases first : (st.get m).ceiling = false ∧ (g m (st.get m)).ceiling = true
      · simp only [later, List.exists_mem_cons_iff, first, and_self, true_or, if_true]
        split
        · exact Nu.addBoth_addBoth
        · rfl
      · simp only [later, List.exists_mem_cons_iff, first, false_or, if_false]
    · conv_lhs => rw [frame, h.frame m st ready]

open Classical in
/-- Work over every record in use. -/
theorem Recomputes.eachInUse (h : Recomputes f g) (ready : st.Ready) :
    (st.eachInUse f).nu = (if st.rises (st.eachInUse f) then st.nu.addBoth .ceiling else st.nu) ∧
      st.eachInUse f = { st with records := (st.eachInUse f).records, nu := (st.eachInUse f).nu } := by
  obtain ⟨nu, frame⟩ := h.fold st.inUseSlots (Store.inUseSlots_nodup ready.wf) ready
  refine ⟨?_, frame⟩
  have rises : st.rises (st.eachInUse f) ↔ ∃ n ∈ st.inUseSlots, (st.get n).ceiling = false ∧ (g n (st.get n)).ceiling = true :=
    exists_congr fun n => by
      rw [(Store.get_eachInUse h.toPointwise ready).2, Store.mem_inUseSlots]
      by_cases inUse : (st.get n).inUse = true
      · simp [inUse]
      · simp only [inUse, Bool.false_eq_true, if_false, false_and, iff_false]
        rintro ⟨clear, set⟩
        rw [clear] at set
        cases set
  rw [Store.eachInUse, nu, ← Store.eachInUse]
  simp only [rises]

theorem Dt.retarget_frame : Dt.retarget cx after n bank st = { st with
    records := (Dt.retarget cx after n bank st).records, nu := (Dt.retarget cx after n bank st).nu } := by
  simp only [Dt.retarget]
  split <;> rfl

/-- A recompute adds CEILING where it moves the flag from clear to set (R90). -/
theorem Dt.retarget_nu : (Dt.retarget cx after n bank st).nu =
    if (st.get n).ceiling = false ∧ (Record.retargeted cx.limit after bank (st.get n)).ceiling = true then st.nu.addBoth .ceiling else st.nu := by
  have flag : (Record.retargeted cx.limit after bank (st.get n)).ceiling = isLimited cx.limit bank (st.get n).theta (st.get n).hours := by
    cases after <;> rfl
  rw [flag]
  simp only [Dt.retarget]
  cases isLimited cx.limit bank (st.get n).theta (st.get n).hours <;> cases (st.get n).ceiling <;> rfl

theorem Recomputes.recompute (cx : Ctx) (after : After) (p : Record → Bool) :
    Recomputes (fun n st => if p (st.get n) then Dt.recompute cx after n st else st)
      (fun _ r => if p r then Record.retargeted cx.limit after (cx.bankInUse r).2 r else r) where
  toPointwise := Pointwise.recompute cx after p
  nu n st h := by
    cases p (st.get n) with
    | true => simp only [if_true, Dt.recompute_clean h.clean, Dt.retarget_nu]
    | false =>
      simp only [Bool.false_eq_true, if_false]
      rw [if_neg]
      rintro ⟨clear, set⟩
      rw [clear] at set
      cases set
  frame n st h := by
    cases p (st.get n) with
    | true =>
      simp only [if_true, Dt.recompute_clean h.clean]
      exact Dt.retarget_frame
    | false => rfl

/-! ### Many records recomputed (R91) -/

/-- What the recompute of every record in use that passes a test leaves: CEILING added where a flag rises, and nothing else touched but those
records. -/
structure State.Recomputed (s : State) (g : Record → Record) (t : State) : Prop where
  frame : t = { s with store := { s.store with records := t.store.records, nu := t.store.nu } }
  gains : s.store.nu.gains [.ceiling] t.store.nu
  adds : s.addsCeiling t
  record : ∀ n, t.record n = g (s.record n)

theorem Dt.recomputeWhere_recomputed (canonical : s.canonical) (clean : s.clean) (p : Record → Bool) :
    s.Recomputed (fun r => if r.inUse = true ∧ p r = true then Record.retargeted s.params.headroomLimit .slew (s.ctx.bankInUse r).2 r else r)
      (Dt.recomputeWhere p s) := by
  classical
  have ready : s.store.Ready := ⟨canonical.1, clean⟩
  obtain ⟨nu, frame⟩ := (Recomputes.recompute s.ctx .slew p).eachInUse ready
  have record := (Store.get_eachInUse (Pointwise.recompute s.ctx .slew p) ready).2
  refine ⟨?_, ?_, ?_, fun n => (record n).trans ?_⟩
  · rw [Dt.recomputeWhere, State.onStore, frame]
  · rw [Dt.recomputeWhere, State.onStore_store, nu]
    exact Nu.gains_ite List.mem_cons_self
  · rw [State.addsCeiling, Dt.recomputeWhere, State.onStore_store, nu]
    exact Nu.adds_ite
  · rw [State.record]
    cases (s.store.get n).inUse <;> cases p (s.store.get n) <;> rfl

theorem State.onStore_taken {p : Port} {rest : List Message} {w : Ctx → Store → Store} :
    (s.taken p rest).onStore w = (s.onStore w).taken p rest := by cases p <;> rfl

theorem Dt.recomputeWhere_taken {p : Port} {rest : List Message} {test : Record → Bool} :
    Dt.recomputeWhere test (s.taken p rest) = (Dt.recomputeWhere test s).taken p rest := State.onStore_taken

end Sys2Proof.Machine
end

section
/-! PROOF. Batch defaults, and the two parameters whose writes recompute records (R8, R24 to R26, R95, R97). -/
namespace Sys2Proof.Machine

-- One declaration after another: as one text the file has more of them than it may have threads.
set_option Elab.async false

variable {s : State} {rest : List Message} {v : Nat}

/-! ### Banks in use (R9) -/

theorem Ctx.bankInUse_fallback {r : Record} {cx : Ctx} (h : r.state ≠ .live) : (cx.bankInUse r).2 = cx.fallbackBank r := by
  rw [Ctx.bankInUse, if_neg h]
  rfl

theorem Record.usesBatch_iff {batch : Nat} {r : Record} : r.inUse = true ∧ r.usesBatch batch = true ↔ r.batch = batch ∧ r.state ≠ .live ∧ r.state ≠ .free := by
  unfold Record.inUse Record.usesBatch
  cases r.state <;> simp

theorem Ctx.usesUnity_iff {r : Record} {cx : Ctx} : cx.usesUnity r = true ↔ r.state ≠ .live ∧ batchEntryOf cx.batches r.batch = none := by
  simp only [Ctx.usesUnity, Ctx.bankInUse]
  split
  · simp [*]
  · rw [batchBank]
    cases batchEntryOf cx.batches r.batch <;> simp [*]

theorem batchBank_of_none {batch : Nat} {batches : Table (Option BatchEntry)} (h : batchEntryOf batches batch = none) :
    (batchBank batches v batch).2 = unityBank v := by
  rw [batchBank, h]

/-! ### An entry of the Batch Default Table written (R24, R25) -/

/-- The state with an entry of the Batch Default Table written. -/
def State.setBatch (n : Nat) (e : Option BatchEntry) (s : State) : State := { s with batches := Table.set none n e s.batches }

/-- What a change of a batch's entry leaves: the entry, and the targets of the batch's records that are not LIVE, with CEILING where a flag
rises (R24, R25, R90). -/
structure State.Rebatched (s : State) (batch n : Nat) (e : Option BatchEntry) (t : State) : Prop where
  frame : t = { s with batches := t.batches, store := { s.store with records := t.store.records, nu := t.store.nu } }
  gains : s.store.nu.gains [.ceiling] t.store.nu
  adds : s.addsCeiling t
  entry : Table.get none t.batches n = e
  others : ∀ k, k ≠ n → Table.get none t.batches k = Table.get none s.batches k
  record : ∀ k, t.record k = if (s.record k).batch = batch ∧ (s.record k).state ≠ .live ∧ (s.record k).state ≠ .free then { s.record k with
      target := targetsOf s.params.headroomLimit (t.ctx.fallbackBank (s.record k)) (s.record k).theta (s.record k).hours
      ceiling := isLimited s.params.headroomLimit (t.ctx.fallbackBank (s.record k)) (s.record k).theta (s.record k).hours }
    else s.record k

theorem Dt.recomputeBatch_rebatched {n batch : Nat} {e : Option BatchEntry} (canonical : s.canonical) (clean : s.clean) :
    s.Rebatched batch n e (Dt.recomputeWhere (Record.usesBatch batch) (s.setBatch n e)) := by
  have kept : (s.setBatch n e).canonical := by
    obtain ⟨records, index, batches, others⟩ := id canonical
    exact ⟨records, index, Table.wf_set batches, others⟩
  have whole := Dt.recomputeWhere_recomputed kept clean (Record.usesBatch batch)
  generalize Dt.recomputeWhere (Record.usesBatch batch) (s.setBatch n e) = t at whole
  have batches : t.batches = Table.set none n e s.batches := congrArg State.batches whole.frame
  have ctx : t.ctx = (s.setBatch n e).ctx := by rw [whole.frame]; rfl
  refine ⟨?_, whole.gains, whole.adds, ?_, fun k hk => ?_, fun k => ?_⟩
  · conv_lhs => rw [whole.frame]
    rw [batches]
    rfl
  · rw [batches, Table.get_set_same canonical.2.2.1]
  · rw [batches, Table.get_set_ne hk]
  · rw [whole.record, ctx]
    simp only [Record.usesBatch_iff]
    refine ite_congr rfl (fun uses => ?_) fun _ => rfl
    rw [show (s.setBatch n e).record k = s.record k from rfl, Ctx.bankInUse_fallback uses.2.1]
    rfl

theorem State.setBatch_taken {p : Port} {n : Nat} {e : Option BatchEntry} : (s.taken p rest).setBatch n e = (s.setBatch n e).taken p rest := by cases p <;> rfl

/-- Settles O21. -/
theorem batchEntriesAreClearedAndRead : Obligations.BatchEntriesAreClearedAndRead := by
  refine ⟨fun s tag rest batch n e canonical clean hb h held => ?clears, fun s tag rest batch hb h none => ?missing,
    fun s p tag rest n hn h => ?reads, fun s p tag rest n high hn h => ?refused⟩
  case clears =>
    obtain ⟨frame, gains, adds, entry, others, record⟩ := Dt.recomputeBatch_rebatched (batch := batch) (n := n) (e := none) canonical clean
    refine ⟨_, ?_, frame, gains, adds, entry, others, record⟩
    refine congrArg Host.Outcome.next (Cx.command_leaves (r := .ok (byteOf n)) h (by decide) (fun _ => rfl) rfl ?_)
    rw [← Dt.recomputeWhere_taken, ← State.setBatch_taken]
    simp only [Rt.clearBatchBody, natAt_u16_alone hb, State.taken_batches, held]
    rfl
  case missing =>
    refine congrArg Host.Outcome.next (Cx.command_leaves (r := .bare .noRecord) h (by decide) (fun _ => rfl) rfl ?_)
    simp only [Rt.clearBatchBody, natAt_u16_alone hb, State.taken_batches, none]
  case reads =>
    have body : ∀ items, Rt.readBatchBody p (byteOf n) (s.taken p rest) = (.ok items, s.taken p rest) →
        exec .readBatchDefault s = .next (s.answered p rest tag .ok items) := fun items hb =>
      congrArg Host.Outcome.next (Cx.command_leaves (r := .ok items) h (by decide) (by nofun) rfl hb)
    cases entry : Table.get none s.batches n with
    | none =>
      refine body _ ?_
      simp only [Rt.readBatchBody, natAt_byteOf_alone (show n < 256 by omega), if_neg (Nat.not_lt.2 hn), State.taken_batches, entry]
      rfl
    | some e =>
      refine body _ ?_
      simp only [Rt.readBatchBody, natAt_byteOf_alone (show n < 256 by omega), if_neg (Nat.not_lt.2 hn), State.taken_batches, entry]
      rfl
  case refused =>
    refine congrArg Host.Outcome.next (Cx.command_leaves (r := .badField 0) h (by decide) (by nofun) rfl ?_)
    simp only [Rt.readBatchBody, natAt_byteOf_alone hn, if_pos high]

/-- Settles O20. -/
theorem setBatchDefaultFillsTheEntryAndRecomputes : Obligations.SetBatchDefaultFillsTheEntryAndRecomputes := by
  have bytes : ∀ (batch : Nat) (image : List Byte), (u16 batch ++ image).drop 2 = image := fun _ _ => List.drop_left' (by simp)
  have fits : ∀ (batch : Nat) (bank : Bank), decide (41 ≤ (u16 batch ++ bankImage bank).length) = true := fun batch bank => by
    simp only [List.length_append, u16_length, bankImage_length, decide_eq_true_eq]
    omega
  refine ⟨fun s tag rest batch bank hb valid h => ⟨fun full => ?full, fun entry canonical clean slot => ?fills⟩,
    fun s tag rest batch image hb long h bad => ?refused⟩
  case full =>
    refine congrArg Host.Outcome.next (Cx.command_leaves (r := .bare .listFull) h (by decide) (fun _ => rfl) ?_ ?_)
    · exact fits batch bank
    · simp only [Rt.setBatchBody, natAt_u16 hb, bytes, bankFault_bankImage valid, State.taken_batches, full]
  case fills =>
    obtain ⟨frame, gains, adds, filled, others, record⟩ :=
      Dt.recomputeBatch_rebatched (batch := batch) (n := entry) (e := some ⟨batch, bank⟩) canonical clean
    refine ⟨_, ?_, frame, gains, adds, filled, others, fun k other => (record k).trans (if_neg ?_), fun k same notLive notFree =>
      (record k).trans (if_pos ⟨same, notLive, notFree⟩)⟩
    · refine congrArg Host.Outcome.next (Cx.command_leaves (r := .ok (byteOf entry ++ halfBytes (bankCrc bank))) h (by decide) (fun _ => rfl) ?_ ?_)
      · exact fits batch bank
      · rw [← Dt.recomputeWhere_taken, ← State.setBatch_taken]
        simp only [Rt.setBatchBody, natAt_u16 hb, bytes, bankFault_bankImage valid, bankOf_bankImage valid, State.taken_batches, slot]
        rfl
    · rintro ⟨same, notLive, notFree⟩
      exact other.elim (· same) (·.elim notLive notFree)
  case refused =>
    cases fault : bankFault 2 image with
    | none =>
      obtain ⟨bank, valid, same⟩ := exists_bankImage fault
      exact absurd same (bad bank valid)
    | some field =>
      refine ⟨field, rfl, congrArg Host.Outcome.next (Cx.command_leaves (r := .badField field) h (by decide) (fun _ => rfl) ?_ ?_)⟩
      · simp only [List.length_append, u16_length, decide_eq_true_eq]
        omega
      · simp only [Rt.setBatchBody, bytes, fault]

/-! ### HEADROOM_LIMIT and FALLBACK_GAIN (R8, R95, R97) -/

theorem Recomputes.clamp (cx : Ctx) : Recomputes (Dt.clampApplied cx) (fun _ => Record.clamped cx.limit) where
  ready n st h := by rw [Dt.clampApplied_clean h.clean]; exact h.modify
  other n st k h hk := by rw [Dt.clampApplied_clean h.clean, Store.get_modify_ne hk]
  own n st h := by rw [Dt.clampApplied_clean h.clean, Store.get_modify_same h.wf]
  nu n st h := by
    rw [Dt.clampApplied_clean h.clean, if_neg]
    · rfl
    · rintro ⟨clear, set⟩
      rw [show (Record.clamped cx.limit (st.get n)).ceiling = (st.get n).ceiling from rfl, clear] at set
      cases set
  frame n st h := by rw [Dt.clampApplied_clean h.clean]; rfl

/-- The clamp of every applied gain leaves the ceiling flags, and so adds no event kind (R90, R95). -/
theorem Dt.clampAll_frame (canonical : s.canonical) (clean : s.clean) :
    Dt.clampAll s = { s with store := { s.store with records := (Dt.clampAll s).store.records } } ∧
      ∀ n, (Dt.clampAll s).record n = if (s.record n).inUse then (s.record n).clamped s.params.headroomLimit else s.record n := by
  classical
  have ready : s.store.Ready := ⟨canonical.1, clean⟩
  obtain ⟨nu, frame⟩ := (Recomputes.clamp s.ctx).eachInUse ready
  have record := (Store.get_eachInUse (Recomputes.clamp s.ctx).toPointwise ready).2
  have flags : ¬ s.store.rises (s.store.eachInUse (Dt.clampApplied s.ctx)) := by
    rintro ⟨n, clear, set⟩
    rw [record] at set
    split at set
    · rw [show (Record.clamped s.ctx.limit (s.store.get n)).ceiling = (s.store.get n).ceiling from rfl, clear] at set
      cases set
    · rw [clear] at set
      cases set
  rw [if_neg flags] at nu
  refine ⟨?_, record⟩
  rw [nu] at frame
  rw [Dt.clampAll, State.onStore, frame]

/-- What a write of HEADROOM_LIMIT makes of a record in use (R95). -/
def Record.relimited (old new : Nat) (bank : Bank) (r : Record) : Record := { r with
  applied := if new < old then ⟨min new r.applied.r, min new r.applied.g, min new r.applied.b⟩ else r.applied
  target := targetsOf new bank r.theta r.hours
  ceiling := isLimited new bank r.theta r.hours }

/-- What a write of HEADROOM_LIMIT leaves (R95). -/
theorem Dt.writeLimit_recomputed (canonical : s.canonical) (clean : s.clean) :
    (s.limited v).Recomputed (fun r => if r.inUse then r.relimited s.params.headroomLimit v ((s.limited v).ctx.bankInUse r).2 else r)
      (Dt.writeLimit v s) := by
  rw [Dt.writeLimit_eq]
  by_cases lower : v < s.params.headroomLimit
  · rw [if_pos lower]
    obtain ⟨frame, record⟩ := Dt.clampAll_frame (s := s.limited v) canonical clean
    have kept : (Dt.clampAll (s.limited v)).canonical := Dt.clampAll_work.canonical (by exact canonical)
    generalize Dt.clampAll (s.limited v) = u at frame record kept
    have whole := Dt.recomputeWhere_recomputed kept (by rw [frame]; exact clean) fun _ => true
    generalize Dt.recomputeWhere _ u = t at whole
    have nu : u.store.nu = s.store.nu := congrArg (fun x => x.store.nu) frame
    have flags : ∀ n, (u.record n).ceiling = (s.record n).ceiling := fun n => by
      rw [record]
      split <;> rfl
    have ctx : u.ctx = (s.limited v).ctx := by rw [frame]; rfl
    refine ⟨?_, ?_, fun p => ?_, fun n => ?_⟩
    · conv_lhs => rw [whole.frame, frame]
    · have := whole.gains
      rwa [nu] at this
    · have := whole.adds p
      simp only [nu, flags] at this
      exact this
    · rw [whole.record, ctx, record]
      have limit : u.params.headroomLimit = v := congrArg (·.params.headroomLimit) frame
      rw [limit, show (s.limited v).params.headroomLimit = v from rfl]
      generalize (s.limited v).record n = r
      by_cases used : r.inUse = true
      · have clamped : (r.clamped v).inUse = true := used
        simp only [used, clamped, if_true, and_true, Record.relimited, if_pos lower]
        rfl
      · simp only [used, Bool.false_eq_true, false_and, if_false]
  · rw [if_neg lower]
    have whole := Dt.recomputeWhere_recomputed (s := s.limited v) canonical clean fun _ => true
    refine ⟨whole.frame, whole.gains, whole.adds, fun n => ?_⟩
    rw [whole.record]
    simp only [and_true, Record.relimited, if_neg lower]
    rfl

/-! ### SET_PARAMETER in turn (R183) -/

section
variable {number value : Nat} {q : Param}

theorem setParameter_operands (hn : number < 256) (hv : value < 2 ^ 32) :
    natAt (byteOf number ++ beBytes 4 value) 0 1 = number ∧ natAt (byteOf number ++ beBytes 4 value) 1 4 = value :=
  ⟨natAt_byteOf hn _, by
    rw [natAt_append_right (by simp)]
    exact natAt_beBytes_alone (by simpa using hv)⟩

theorem paramOf_lt (h : paramOf number = some q) : number < 256 := by
  by_contra high
  rw [paramOf_eq_none (by omega)] at h
  cases h

/-- A value in the range of its parameter is taken as it is, and any other is not (R183). -/
theorem Param.taken_eq_iff : q.taken value = value ↔ q.range.1 ≤ value ∧ value ≤ q.range.2 := by
  have ordered : q.range.1 ≤ q.range.2 := by cases q <;> decide
  simp only [Param.taken, clampNat]
  omega

/-- An accepted SET_PARAMETER answers the value taken, in the state that its storing leaves (R183). -/
theorem exec_setParameter_stores {tag : Byte} (hq : paramOf number = some q) (hv : value < 2 ^ 32)
    (h : s.takes .a 0x01 tag (byteOf number ++ beBytes 4 value) rest)
    (listed : q.enumerated = true → q.taken value = value) (idle : q = .nominalPeriod → s.ftu.switchPending = false) :
    exec .setParameter s = .next (Cx.answer .a tag
      ⟨if q.range.1 ≤ value ∧ value ≤ q.range.2 then .ok else .clamped, byteOf number ++ beBytes 4 (q.taken value)⟩
      (Cx.writeParam q (q.taken value) (s.taken .a rest))) := by
  obtain ⟨first, second⟩ := setParameter_operands (paramOf_lt hq) hv
  have body : Cx.setParameterBody .a (byteOf number ++ beBytes 4 value) (s.taken .a rest) =
      (⟨if q.taken value = value then .ok else .clamped, byteOf number ++ beBytes 4 (q.taken value)⟩,
        Cx.writeParam q (q.taken value) (s.taken .a rest)) := by
    have unlisted : ¬ (q.enumerated && decide (q.taken value ≠ value)) = true := by simpa using listed
    have free : ¬ (q == .nominalPeriod && (s.taken .a rest).ftu.switchPending) = true := by simpa using idle
    simp only [Cx.setParameterBody, first, second, hq, if_neg unlisted, if_neg free]
  simp only [Param.taken_eq_iff] at body
  refine congrArg Host.Outcome.next ((Cx.command_of_takes h (by decide) (fun _ => rfl) ?_).trans ?_)
  · simp
  · rw [body]

/-- An accepted SET_PARAMETER whose storing does not turn on what the port holds. -/
theorem exec_setParameter_leaves {t : State} {tag : Byte} (hq : paramOf number = some q) (hv : value < 2 ^ 32)
    (h : s.takes .a 0x01 tag (byteOf number ++ beBytes 4 value) rest)
    (listed : q.enumerated = true → q.taken value = value) (idle : q = .nominalPeriod → s.ftu.switchPending = false)
    (leaves : Cx.writeParam q (q.taken value) (s.taken .a rest) = t.taken .a rest) :
    exec .setParameter s = .next (t.answered .a rest tag (if q.range.1 ≤ value ∧ value ≤ q.range.2 then .ok else .clamped)
      (byteOf number ++ beBytes 4 (q.taken value))) := by
  rw [exec_setParameter_stores hq hv h listed idle, leaves, Cx.answer_taken]

end

theorem Dt.writeLimit_taken {p : Port} : Dt.writeLimit v (s.taken p rest) = (Dt.writeLimit v s).taken p rest := by
  have limited : (s.taken p rest).limited v = (s.limited v).taken p rest := by cases p <;> rfl
  rw [Dt.writeLimit_eq, Dt.writeLimit_eq, limited, State.taken_params, ← Dt.recomputeWhere_taken]
  split
  · rw [Dt.clampAll, State.onStore_taken, ← Dt.clampAll]
  · rfl

/-- The state with the FALLBACK_GAIN of a write. -/
def State.refallen (v : Nat) (s : State) : State := { s with params := { s.params with fallbackGain := v } }

theorem Dt.writeFallback_eq : Dt.writeFallback v s = Dt.recomputeWhere (s.refallen v).ctx.usesUnity (s.refallen v) := rfl

theorem Dt.writeFallback_taken {p : Port} : Dt.writeFallback v (s.taken p rest) = (Dt.writeFallback v s).taken p rest := by
  rw [Dt.writeFallback_eq, Dt.writeFallback_eq, ← Dt.recomputeWhere_taken]
  cases p <;> rfl

/-- Settles O12. -/
theorem headroomAndFallbackWritesRecompute : Obligations.HeadroomAndFallbackWritesRecompute := by
  unfold Obligations.HeadroomAndFallbackWritesRecompute
  refine ⟨fun s tag rest v low high canonical clean h => ?limit, fun s tag rest v high canonical clean h => ?fallback⟩
  case limit =>
    have taken : Param.headroomLimit.taken v = v := Param.taken_eq_iff.2 ⟨low, high⟩
    have whole := Dt.writeLimit_recomputed (v := v) canonical clean
    have run := exec_setParameter_leaves (number := 0x01) (t := Dt.writeLimit v s) rfl (by omega) h nofun nofun (by rw [taken]; exact Dt.writeLimit_taken)
    generalize Dt.writeLimit v s = t at whole run
    have ctx : t.ctx = (s.limited v).ctx := by rw [whole.frame]; rfl
    refine ⟨t, ?_, ⟨?_, whole.gains, whole.adds⟩, congrArg State.params whole.frame, fun n => ?_⟩
    · rw [run, taken, if_pos ⟨low, high⟩]
    · conv_lhs => rw [whole.frame]
      rw [whole.frame]
      rfl
    · rw [ctx]
      exact whole.record n
  case fallback =>
    have taken : Param.fallbackGain.taken v = v := Param.taken_eq_iff.2 ⟨Nat.zero_le v, high⟩
    have whole := Dt.recomputeWhere_recomputed (s := s.refallen v) canonical clean (s.refallen v).ctx.usesUnity
    rw [← Dt.writeFallback_eq] at whole
    have run := exec_setParameter_leaves (number := 0x03) (t := Dt.writeFallback v s) rfl (by omega) h nofun nofun (by rw [taken]; exact Dt.writeFallback_taken)
    generalize Dt.writeFallback v s = t at whole run
    refine ⟨t, ?_, ⟨?_, whole.gains, whole.adds⟩, congrArg State.params whole.frame, fun n => (whole.record n).trans ?_⟩
    · rw [run, taken, if_pos ⟨Nat.zero_le v, high⟩]
    · conv_lhs => rw [whole.frame]
      rw [whole.frame]
      rfl
    · simp only [Ctx.usesUnity_iff]
      refine ite_congr rfl (fun uses => ?_) fun _ => rfl
      rw [show (s.refallen v).record n = s.record n from rfl, Ctx.bankInUse_fallback uses.2.1, Ctx.fallbackBank,
        show (s.refallen v).ctx.batches = s.batches from rfl, batchBank_of_none uses.2.2]
      rfl

end Sys2Proof.Machine
end

section
/-! PROOF. What a frame boundary leaves, whatever stands in the record store: the stages touch the records with their directory, the load, and the
lists, outcomes and expiries of the ports; the latch and the scrub their own state (R139). -/
namespace Sys2Proof.Machine

-- One declaration after another: as one text the file has more of them than it may have threads.
set_option Elab.async false

variable {s : State}

/-! ### Event kinds beside counters -/

/-- Work that adds no event kind but those named, whatever it counts. -/
def Nu.raises (kinds : List Event) (n m : Nu) : Prop := ({ n with counters := m.counters } : Nu).gains kinds m

theorem Nu.raises_refl {n : Nu} {kinds : List Event} : n.raises kinds n := Nu.gains_refl

theorem Nu.gains.raises {n m : Nu} {kinds : List Event} (h : n.gains kinds m) : n.raises kinds m := ⟨rfl, h.2⟩

theorem Nu.raises.trans {n m o : Nu} {kinds : List Event} (h : n.raises kinds m) (g : m.raises kinds o) : n.raises kinds o :=
  Nu.gains.trans (m := { m with counters := o.counters }) ⟨rfl, h.2⟩ g

theorem Nu.raises_count {n : Nu} {kinds : List Event} (c : Counter) (k : Nat) : n.raises kinds (n.count c k) := Nu.gains_refl (n := n.count c k)

/-- A kind that is not among those named is pending exactly where it was. -/
theorem Nu.raises.pending {n m : Nu} {kinds : List Event} (h : n.raises kinds m) {e : Event} (he : e ∉ kinds) (q : Port) :
    (m.sets q).pending.getLsbD e.number = true ↔ (n.sets q).pending.getLsbD e.number = true :=
  ⟨fun hm => ((h.2.2 q).2 e).2 hm |>.resolve_right he, ((h.2.2 q).2 e).1⟩

/-- The kinds that a stage of a boundary may add. -/
def stageKinds : List Event := [.commitDone, .holdExpired, .loadDone, .loadAborted, .poolLow, .ceiling, .recordSuspect]

/-- Reads, recomputes and condemnations of one slot add no other kind. -/
theorem Store.raises_closure (cx : Ctx) (slot : Nat) : Store.Closure cx slot (fun st st' => st.nu.raises stageKinds st'.nu) where
  refl _ := Nu.raises_refl
  trans := Nu.raises.trans
  damage _ _ := Nu.raises_refl
  finding _ _ := Nu.raises_refl
  count _ _ _ := Nu.raises_count _ _
  suspected _ := (Nu.gains_addBoth (by decide)).raises
  suspect _ := Nu.raises_refl
  rebuilt _ _ := Nu.raises_refl
  named _ _ _ _ := Nu.raises_refl
  cleared _ := Nu.raises_refl
  retarget st after bank := by
    rw [Dt.retarget_nu]
    exact (Nu.gains_ite (by decide)).raises
  zeroed _ _ _ := Nu.raises_refl
  marked _ _ := Nu.raises_refl

/-! ### The stages (R139) -/

/-- `t` differs from `s` at most in what the stages of a boundary touch beside the cursor of the scrub and the latch of the pixels. -/
structure State.Staged (s t : State) : Prop where
  frame : t = { s with
    store := t.store
    index := t.index
    freeQueue := t.freeQueue
    load := t.load
    portA := { s.portA with
      commitList := t.portA.commitList, scheduled := t.portA.scheduled, outcome := t.portA.outcome, expiry := t.portA.expiry }
    portB := { s.portB with
      commitList := t.portB.commitList, scheduled := t.portB.scheduled, outcome := t.portB.outcome, expiry := t.portB.expiry } }
  raises : s.store.nu.raises stageKinds t.store.nu

namespace State.Staged

theorem refl (s : State) : s.Staged s := ⟨rfl, Nu.raises_refl⟩

theorem trans {t u : State} (h : s.Staged t) (g : t.Staged u) : s.Staged u where
  frame := by conv_lhs => rw [g.frame, h.frame]
  raises := h.raises.trans g.raises

theorem ite {t u : State} {c : Prop} [Decidable c] (h : s.Staged t) (g : s.Staged u) : s.Staged (if c then t else u) := by
  split
  · exact h
  · exact g

theorem fold {α : Type} {f : State → α → State} (h : ∀ acc x, State.Staged acc (f acc x)) (l : List α) : s.Staged (l.foldl f s) :=
  foldl_keep (P := s.Staged) l (fun acc x _ ha => ha.trans (h acc x)) (.refl s)

theorem onStore {f : Ctx → Store → Store} (h : s.store.nu.raises stageKinds (f s.ctx s.store).nu) : s.Staged (s.onStore f) := ⟨rfl, h⟩

theorem onNu {f : Nu → Nu} (h : s.store.nu.raises stageKinds (f s.store.nu)) : s.Staged (s.onNu f) := ⟨rfl, h⟩

theorem read (rd : Reader) (slot : Nat) (sel : ArrayWord → Bool) : s.Staged (s.read rd slot sel) :=
  onStore ((Store.raises_closure s.ctx slot).read _ _ _)

theorem edits {t : State} (h : State.editsOnly s t) (nu : s.store.nu.raises stageKinds t.store.nu) : s.Staged t where
  frame := by
    rewrite [h]
    rfl
  raises := nu

theorem discard {k : Nat} : s.Staged (Cu.discard k s) := ⟨rfl, Nu.raises_refl⟩

theorem modify {k : Nat} {f : Record → Record} : s.Staged (s.modify k f) := ⟨rfl, Nu.raises_refl⟩

theorem writeStateWord {k : Nat} (rd : Reader) {f : Record → Record} : s.Staged (s.writeStateWord rd k f) := (read rd k _).trans modify

theorem recompute {k : Nat} (after : After) : s.Staged (s.onStore fun cx st => Dt.recompute cx after k st) :=
  onStore ((Store.raises_closure s.ctx k).recompute s.store after)

theorem exchange {k : Nat} : s.Staged (Cu.exchange k s) := by
  unfold Cu.exchange
  refine trans ?_ (recompute _)
  refine trans ?_ (writeStateWord _)
  exact modify

theorem applyOne {k : Nat} : s.Staged (Cu.applyOne k s) := ite discard (exchange.trans discard)

theorem applySet (slots : List Nat) : s.Staged (Cu.applySet slots s).2 := by
  rw [Cu.applySet_eq]
  exact fold (fun _ _ => applyOne) slots

theorem onPort {p : Port} {f : PortState → PortState} (h : ∀ q, f q = { q with
      commitList := (f q).commitList, scheduled := (f q).scheduled, outcome := (f q).outcome, expiry := (f q).expiry }) :
    s.Staged (s.onPort p f) := by
  refine ⟨?_, ?_⟩
  · cases p <;> simp only [State.onPort] <;> conv_lhs => rw [h]
  · cases p <;> exact Nu.raises_refl

theorem addEvent {p : Port} {e : Event} (h : e ∈ stageKinds) : s.Staged (s.addEvent p e) := onNu (Nu.gains_add h).raises

theorem applyPort {p : Port} : s.Staged (Cu.applyPort p s) :=
  ite (.refl s) (((applySet _).trans (onPort fun _ => rfl)).trans (addEvent (by decide)))

theorem load {l : Load} : s.Staged { s with load := l } := ⟨rfl, Nu.raises_refl⟩

theorem complete : s.Staged (Bl.complete s) := by
  by_cases h : s.load.state = .committing
  · have settled := (applySet (s := s) s.load.scheduled).trans (fold (f := fun acc n => acc.modify n Record.kept) (fun _ _ => modify) s.load.list)
    have ended := settled.trans (load (l := (Bl.finish (Cu.applySet s.load.scheduled s).1 s.load.list.length
      (Bl.settle s.load.list (Cu.applySet s.load.scheduled s).2)).load))
    rw [Bl.complete_eq h]
    cases s.load.owner with
    | none => exact ended
    | some p => exact ended.trans (addEvent (by decide))
  · rw [Bl.complete_idle h]
    exact .refl s

theorem expirePort {p : Port} : s.Staged (Cu.expirePort p s) := by
  simp only [Cu.expirePort]
  split
  · exact .refl s
  · exact ((fold (fun _ _ => discard) _).trans (onPort fun _ => rfl)).trans (addEvent (by decide))

theorem timeout : s.Staged (Bl.timeout s) := by
  refine ite ?_ (.refl s)
  obtain ⟨edits', -, nu, -⟩ := Bl.abort_frame .timeout s
  refine edits edits' ?_
  rw [nu]
  cases s.load.owner with
  | none => exact Nu.raises_refl
  | some p => exact (Nu.gains_add (by decide)).raises

theorem ageHolds : s.Staged (Cu.ageHolds s) := ⟨rfl, Nu.raises_refl⟩

theorem age : s.Staged (Bl.age s) := ite load (.refl s)

theorem commitWork : s.Staged (Stage.commitWork s) := by
  unfold Stage.commitWork
  refine trans ?_ timeout
  refine trans ?_ age
  refine trans ?_ expirePort
  refine trans ?_ expirePort
  refine trans ?_ ageHolds
  refine trans ?_ complete
  exact applyPort.trans applyPort

theorem slew : s.Staged (Dt.slew s) :=
  onStore (Store.eachInUse_keep (P := fun st => s.store.nu.raises stageKinds st.nu)
    (fun n _ h => h.trans ((Store.raises_closure _ n).slewRecord _ _ fun _ => Nu.raises_refl)) Nu.raises_refl)

theorem latchSeat (e : Seat) : s.Staged (Cd.latchSeat e s).2 := by
  simp only [Cd.latchSeat]
  split
  · exact trans (read _ _ _) (trans (ite (read _ _ _) (.refl _)) (read _ _ _))
  · exact .refl s

theorem latchSeats (seats : Table Seat) (acc : Table SnapEntry) : s.Staged (Cd.latchSeats seats acc s).2 := by
  induction seats generalizing acc s with
  | nil => exact .refl s
  | cons e seats ih =>
    obtain ⟨n, e⟩ := e
    exact (latchSeat e).trans (ih _)

/-- What is touched besides stays aside. -/
theorem aside {t : State} {k : Nat} {cd : Cd} (h : s.Staged t) : State.Staged { s with cd := cd, cursor := k } { t with cd := cd, cursor := k } where
  frame := by
    rewrite [h.frame]
    rfl
  raises := h.raises

theorem kept {t : State} (h : s.Staged t) : t.cd = s.cd ∧ t.cursor = s.cursor ∧ t.params = s.params ∧ t.seats = s.seats := by
  rw [h.frame]
  exact ⟨rfl, rfl, rfl, rfl⟩

end State.Staged

/-- The pixels' state once a boundary has latched it, with the snapshot taken (R67, R68, R72, R73, R79, R80). -/
def Cd.latched (ps : Params) (snapshot : Table SnapEntry) (c : Cd) : Cd := { c with
  snapshot := snapshot
  settings := ⟨ps.tileCols, ps.tileRows, ps.ditherTemporal⟩
  withdrawn := false
  seedLoad := if c.seedArmed then some ps.ditherSeed else c.seedLoad
  seedArmed := false
  readable := c.running
  running := [] }

/-- The cursor of the scrub after a number of slots (R156). -/
def scrubbed (count cursor : Nat) : Nat := (fun c => (c + 1) % 2048)^[count] cursor

theorem scrubbed_eq {k : Nat} (h : k < 2048) (count : Nat) : scrubbed count k = (k + count) % 2048 := by
  induction count with
  | zero => exact (Nat.mod_eq_of_lt h).symm
  | succ count ih =>
    rw [scrubbed, Function.iterate_succ_apply', ← scrubbed, ih]
    omega

theorem Sc.scrub_staged : State.Staged { s with cursor := scrubbed s.params.scrubRate s.cursor } (Sc.scrub s) := by
  have steps : ∀ count, State.Staged { s with cursor := scrubbed count s.cursor } (Sc.scrubOne^[count] s) := fun count => by
    induction count with
    | zero => exact .refl s
    | succ count ih =>
      rw [scrubbed, Function.iterate_succ_apply', Function.iterate_succ_apply', ← scrubbed]
      obtain ⟨cd, cursor, -⟩ := ih.kept
      generalize Sc.scrubOne^[count] s = a at ih cd cursor
      have step := (ih.trans (.read .sc a.cursor fun _ => true)).aside (cd := s.cd) (k := (a.cursor + 1) % 2048)
      have one : Sc.scrubOne a = { a.read .sc a.cursor fun _ => true with cd := s.cd, cursor := (a.cursor + 1) % 2048 } := by
        rw [show s.cd = a.cd from cd.symm]
        rfl
      rw [one, ← show a.cursor = scrubbed count s.cursor from cursor]
      exact step
  exact steps _

theorem Cd.latch_staged : State.Staged { s with cd := s.cd.latched s.params (Cd.latch s).cd.snapshot } (Cd.latch s) := by
  have taken := State.Staged.latchSeats (s := s) s.seats []
  obtain ⟨cd, cursor, params, -⟩ := taken.kept
  have step := taken.aside (cd := s.cd.latched s.params (Cd.latch s).cd.snapshot) (k := s.cursor)
  have latched : Cd.latch s = { (Cd.latchSeats s.seats [] s).2 with
      cd := s.cd.latched s.params (Cd.latch s).cd.snapshot, cursor := s.cursor } := by
    rw [← cd, ← params, ← cursor]
    rfl
  rewrite [latched]
  exact step

/-- The state that a number of stages leave, but for what every stage may touch. -/
def State.passed (stages : List Stage) (snapshot : Table SnapEntry) (s : State) : State := { s with
  cd := if .latch ∈ stages then s.cd.latched s.params snapshot else s.cd
  cursor := if .scrub ∈ stages then scrubbed s.params.scrubRate s.cursor else s.cursor }

theorem Stage.run_staged (stage : Stage) : (s.passed [stage] (stage.run s).cd.snapshot).Staged (stage.run s) := by
  cases stage with
  | commit => exact .commitWork
  | slew => exact .slew
  | scrub => exact Sc.scrub_staged
  | latch => exact Cd.latch_staged

/-- A boundary's stages, each of them once, in any order (R139, R157). -/
theorem Stage.runAll_staged (stages : List Stage) (nodup : stages.Nodup) :
    (s.passed stages (stages.foldl (fun acc stage => stage.run acc) s).cd.snapshot).Staged (stages.foldl (fun acc stage => stage.run acc) s) := by
  induction stages generalizing s with
  | nil => exact .refl s
  | cons stage stages ih =>
    rw [List.nodup_cons] at nodup
    have first := Stage.run_staged (s := s) stage
    have rest := ih (s := stage.run s) nodup.2
    rw [List.foldl_cons]
    generalize List.foldl _ (stage.run s) stages = t at rest
    obtain ⟨cd, cursor, params, -⟩ := first.kept
    obtain ⟨last, -, -, -⟩ := rest.kept
    generalize stage.run s = a at first rest cd cursor params last
    have pixels : (a.passed stages t.cd.snapshot).cd = (s.passed (stage :: stages) t.cd.snapshot).cd := by
      by_cases latch : stage = .latch
      · subst latch
        have own : t.cd = a.cd := last.trans (if_neg nodup.1)
        rw [own]
        exact ((if_neg nodup.1).trans cd).trans (by simp [State.passed])
      · have before : a.cd = s.cd := cd.trans (if_neg (by simpa using Ne.symm latch))
        simp only [State.passed, before, params, List.mem_cons, Ne.symm latch, false_or]
    have scrub : (a.passed stages t.cd.snapshot).cursor = (s.passed (stage :: stages) t.cd.snapshot).cursor := by
      by_cases scrub : stage = .scrub
      · subst scrub
        exact ((if_neg nodup.1).trans cursor).trans (by simp [State.passed])
      · have before : a.cursor = s.cursor := cursor.trans (if_neg (by simpa using Ne.symm scrub))
        simp only [State.passed, before, params, List.mem_cons, Ne.symm scrub, false_or]
    have step := first.aside (cd := (a.passed stages t.cd.snapshot).cd) (k := (a.passed stages t.cd.snapshot).cursor)
    rw [pixels, scrub] at step
    exact step.trans (by rw [← pixels, ← scrub]; exact rest)

theorem State.boundaryOrder_perm : s.boundaryOrder.Nodup ∧ .latch ∈ s.boundaryOrder ∧ .scrub ∈ s.boundaryOrder := by
  have orders : ∀ n : Fin 8, (stageOrder n.val).Nodup ∧ .latch ∈ stageOrder n.val ∧ .scrub ∈ stageOrder n.val := by decide
  rw [State.boundaryOrder]
  split
  · exact orders 0
  · exact orders _

/-! ### A boundary announced, and the seats aged (R42, R139) -/

/-- The state at the announcement of a boundary: the frame count risen, the next expiry set afresh (R137, R139). -/
def State.announced (s : State) : State := { s with
  ftu := { s.ftu with
    lastBoundary := s.ftu.now, nextExpiry := s.ftu.now + s.params.nominalPeriod, frameCount := s.ftu.frameCount + 1 }
  draws := s.draws + 1 }

/-- The state in which a boundary's stages begin. -/
def State.aged (s : State) : State := Pu.staleCheck (Pu.age s.announced)

theorem boundary_eq (s : State) : boundary s = s.boundaryOrder.foldl (fun acc stage => stage.run acc) s.aged := rfl

theorem State.aged_frame : s.aged = { s.announced with
    store := { s.store with nu := s.aged.store.nu }, seats := s.aged.seats, seatCheckDue := false } := by
  simp only [State.aged, Pu.staleCheck]
  split
  · split <;> rfl
  · rename_i h
    exact absurd rfl h

/-- What a boundary leaves, whatever stands in the store (R67, R73, R80, R137, R139, R156). -/
theorem boundary_leaves (s : State) : State.Staged { s.aged with
    cd := s.cd.latched s.params (boundary s).cd.snapshot, cursor := scrubbed s.params.scrubRate s.cursor } (boundary s) := by
  obtain ⟨nodup, latch, scrub⟩ := s.boundaryOrder_perm
  have whole := Stage.runAll_staged (s := s.aged) s.boundaryOrder nodup
  rw [← boundary_eq] at whole
  have passed : s.aged.passed s.boundaryOrder (boundary s).cd.snapshot = { s.aged with
      cd := s.cd.latched s.params (boundary s).cd.snapshot, cursor := scrubbed s.params.scrubRate s.cursor } := by
    simp only [State.passed, latch, scrub, if_true]
    rw [State.aged_frame]
    rfl
  rwa [passed] at whole

theorem boundary_ftu (s : State) : (boundary s).ftu = { s.ftu with
    lastBoundary := s.ftu.now, nextExpiry := s.ftu.now + s.params.nominalPeriod, frameCount := s.ftu.frameCount + 1 } := by
  rw [(boundary_leaves s).frame, State.aged_frame]
  rfl

theorem boundary_params (s : State) : (boundary s).params = s.params := boundary_work.params

/-- A boundary leaves the messages that wait and the port taken last. -/
theorem boundary_taken {p : Port} {rest : List Message} : (boundary (s.taken p rest)).taken p rest = boundary (s.taken p rest) := by
  have h := (boundary_leaves (s.taken p rest)).frame
  rw [State.aged_frame] at h
  generalize boundary (s.taken p rest) = t at h
  rewrite [h]
  cases p <;> rfl

end Sys2Proof.Machine
end

section
/-! PROOF. The Frame Timing Unit's events: a loss, a pulse, the choice of the source, and a write of NOMINAL_PERIOD (R134 to R146). -/
namespace Sys2Proof.Machine

-- One declaration after another: as one text the file has more of them than it may have threads.
set_option Elab.async false

variable {s : State}

/-! ### Fallback and release (R140, R143) -/

/-- The state in which external timing has ended, before the boundary that may follow (R140, R141). -/
def State.fallen (s : State) : State := { s with
  ftu := { s.ftu with current := .internal, switchPending := decide (s.ftu.requested = .external) }
  store := { s.store with nu := if s.ftu.requested = .external then s.store.nu.addBoth .refFallback else s.store.nu } }

theorem Ftu.fallback_eq (external : s.ftu.current = .external) : Ftu.fallback s = Ftu.boundaryIfPassed s.fallen := by
  have before : s.ftu.refFallback = false := by simp [Ftu.refFallback, external]
  rw [Ftu.fallback, before]
  congr 1
  cases h : s.ftu.requested <;> simp [State.fallen, State.onFtu, State.refOnset, State.onNu, Store.onNu, Nu.onset, Ftu.refFallback, h]

/-- The state in which a held expiry has been released, before the boundary that may follow (R143). -/
def State.released (s : State) : State := { s with ftu := { s.ftu with expiryHeld := false } }

theorem Ftu.release_eq : Ftu.release s = Ftu.boundaryIfPassed s.released := rfl

/-- A boundary placed at the next expiry changes no flag of the Frame Timing Unit. -/
theorem Ftu.boundaryIfPassed_keeps (u : State) : let f := (Ftu.boundaryIfPassed u).ftu
    f.current = u.ftu.current ∧ f.requested = u.ftu.requested ∧ f.switchPending = u.ftu.switchPending ∧ f.expiryHeld = u.ftu.expiryHeld ∧
      f.monitor = u.ftu.monitor ∧ f.lastPulse = u.ftu.lastPulse ∧ f.now = u.ftu.now := by
  rw [Ftu.boundaryIfPassed]
  split
  · rw [boundary_ftu]
    exact ⟨rfl, rfl, rfl, rfl, rfl, rfl, rfl⟩
  · exact ⟨rfl, rfl, rfl, rfl, rfl, rfl, rfl⟩

/-- When a boundary placed at the next expiry falls at once, and what it then leaves (R137, R140). -/
theorem Ftu.boundaryIfPassed_cases (u : State) :
    (u.ftu.now < u.ftu.nextExpiry → Ftu.boundaryIfPassed u = u) ∧
      (u.ftu.nextExpiry ≤ u.ftu.now → Ftu.boundaryIfPassed u = boundary u ∧ (Ftu.boundaryIfPassed u).ftu = { u.ftu with
        lastBoundary := u.ftu.now, nextExpiry := u.ftu.now + u.params.nominalPeriod, frameCount := u.ftu.frameCount + 1 }) :=
  ⟨Ftu.boundaryIfPassed_of_lt, fun h => by
    rw [Ftu.boundaryIfPassed_of_le h]
    exact ⟨rfl, boundary_ftu u⟩⟩

/-! ### A loss (R136) -/

/-- The state at the moment at which the reference is declared lost (R136). -/
def State.lostAt (l : Nat) (s : State) : State := { s with ftu := { s.ftu with now := l, monitor := .noReference, lastPulse := none } }

/-- A loss that no expiry precedes is declared at its deadline. -/
theorem exec_referenceLoss {l : Nat} (deadline : s.lossDeadline = some l) (ahead : s.ftu.now ≤ l) (quiet : ∀ e, s.expiryDeadline = some e → l ≤ e) :
    exec .referenceLoss s = .next (Ftu.unlocked (s.lostAt l)) := by
  have moved : s.advance l = { s with ftu := { s.ftu with now := l } } := by
    rw [State.advance_quiet quiet fun k hk => by rw [deadline] at hk; cases hk; exact le_refl l, Nat.max_eq_right ahead]
  refine congrArg Host.Outcome.next (show Ftu.reachLoss s = _ from ?_)
  simp only [Ftu.reachLoss, deadline, moved]
  exact if_pos deadline

/-- Settles O42. -/
theorem referenceLossEndsExternalTiming : Obligations.ReferenceLossEndsExternalTiming := by
  intro s l deadline ahead sound quiet
  obtain ⟨pending, held, -, -, -⟩ := sound
  refine ⟨_, exec_referenceLoss deadline ahead quiet, ?_⟩
  cases current : s.ftu.current with
  | external =>
    rw [Ftu.unlocked_external (s := s.lostAt l) current, Ftu.fallback_eq (s := s.lostAt l) current]
    obtain ⟨isCurrent, isRequested, isPending, isHeld, isMonitor, isLast, isNow⟩ := Ftu.boundaryIfPassed_keeps (s.lostAt l).fallen
    have free : s.ftu.expiryHeld = false := by
      by_contra h
      exact nomatch current.symm.trans (held (by simpa using h)).1
    exact ⟨isMonitor, isLast, isCurrent, isRequested, by rw [isPending]; exact decide_eq_true_iff, isHeld.trans free, isNow,
      fun _ => Ftu.boundaryIfPassed_cases (s.lostAt l).fallen, nofun, nofun⟩
  | internal =>
    have waits : s.ftu.switchPending = true ↔ s.ftu.requested = .external := by
      rw [pending, current]
      cases s.ftu.requested <;> simp
    cases wasHeld : s.ftu.expiryHeld with
    | true =>
      rw [Ftu.unlocked_held (s := s.lostAt l) current wasHeld, Ftu.release_eq]
      obtain ⟨isCurrent, isRequested, isPending, isHeld, isMonitor, isLast, isNow⟩ := Ftu.boundaryIfPassed_keeps (s.lostAt l).released
      exact ⟨isMonitor, isLast, isCurrent.trans current, isRequested, by rw [isPending]; exact waits, isHeld, isNow, nofun,
        fun _ _ => Ftu.boundaryIfPassed_cases (s.lostAt l).released, nofun⟩
    | false =>
      rw [Ftu.unlocked_internal (s := s.lostAt l) current wasHeld]
      exact ⟨rfl, rfl, current, rfl, waits, wasHeld, rfl, nofun, nofun, fun _ _ => rfl⟩

/-! ### A pulse (R134, R135, R138) -/

/-- Whether a pulse at a moment is in window (R134). -/
def State.onTime (s : State) (now : Nat) : Prop := ∃ last, s.ftu.lastPulse = some last ∧
  s.params.nominalPeriod - s.params.nominalPeriod / 16 ≤ now - last ∧ now - last ≤ s.params.nominalPeriod + s.params.nominalPeriod / 16

/-- The state once a pulse has been recorded, with the monitor it moves to (R134, R135). -/
def State.pulsed (now : Nat) (m : Monitor) (s : State) : State := { s with ftu := { s.ftu with
  now := now, monitor := m, lastPulse := some now, older := s.ftu.newer, newer := s.ftu.lastPulse.map fun last => min 65535 (now - last) } }

theorem State.inWindow_iff : s.inWindow = true ↔ s.onTime s.ftu.now := by
  rw [State.inWindow, State.onTime]
  cases s.ftu.lastPulse with
  | none => simp
  | some last => simp [Params.window]

/-- A pulse that no expiry and no loss precedes, in window and not (R135, R138). -/
theorem exec_frameRefPulse {elapsed : Nat} {m : Monitor} (expiry : ∀ e, s.expiryDeadline = some e → s.ftu.now + elapsed ≤ e)
    (loss : ∀ l, s.lossDeadline = some l → s.ftu.now + elapsed ≤ l) : let now := s.ftu.now + elapsed
    (s.onTime now → s.ftu.monitor.pulse true = m →
      exec (.frameRefPulse elapsed) s = .next (if m = .locked then Ftu.lockedPulse (s.pulsed now m) else s.pulsed now m)) ∧
    (¬ s.onTime now → s.ftu.monitor.pulse false = m →
      exec (.frameRefPulse elapsed) s = .next (if s.ftu.monitor = .locked then Ftu.unlocked (s.pulsed now m) else s.pulsed now m)) := by
  have moved : s.advance (s.ftu.now + elapsed) = { s with ftu := { s.ftu with now := s.ftu.now + elapsed } } := by
    rw [State.advance_quiet expiry loss, Nat.max_eq_right (Nat.le_add_right _ _)]
  have run : exec (.frameRefPulse elapsed) s = .next (Ftu.pulse { s with ftu := { s.ftu with now := s.ftu.now + elapsed } }) :=
    congrArg (fun x => Host.Outcome.next (Ftu.pulse x)) moved
  generalize at_ : ({ s with ftu := { s.ftu with now := s.ftu.now + elapsed } } : State) = a at run
  have window : a.inWindow = true ↔ s.onTime (s.ftu.now + elapsed) := by
    rw [State.inWindow_iff, ← at_]
    rfl
  have recorded : ∀ w, a.onFtu (Ftu.record w) = s.pulsed (s.ftu.now + elapsed) (s.ftu.monitor.pulse w) := fun w => by rw [← at_]; rfl
  have before : a.ftu.monitor = s.ftu.monitor := by rw [← at_]
  refine ⟨fun good moves => ?_, fun bad moves => ?_⟩
  · rw [run, Ftu.pulse, window.2 good, recorded, before, moves]
    rw [show (s.pulsed (s.ftu.now + elapsed) m).ftu.monitor = m from rfl]
    by_cases h : m = .locked
    · simp [h]
    · have unlocked : s.ftu.monitor ≠ .locked := fun e => h (by rw [← moves, e]; rfl)
      simp [h, unlocked]
  · rw [run, Ftu.pulse, Bool.eq_false_iff.2 (mt window.1 bad), recorded, before, moves]
    rw [show (s.pulsed (s.ftu.now + elapsed) m).ftu.monitor = m from rfl]
    have unlocked : m ≠ .locked := by
      rw [← moves]
      cases s.ftu.monitor <;> nofun
    simp [unlocked]

theorem Ftu.lockedPulse_external (current : s.ftu.current = .external) (requested : s.ftu.requested = .external) :
    Ftu.lockedPulse s = boundary s := by
  simp only [Ftu.lockedPulse, current, requested]

theorem Ftu.lockedPulse_internal (requested : s.ftu.requested = .internal) : Ftu.lockedPulse s = s := by
  cases current : s.ftu.current <;> simp only [Ftu.lockedPulse, current, requested]

theorem Ftu.lockedPulse_switch (current : s.ftu.current = .internal) (requested : s.ftu.requested = .external) :
    Ftu.lockedPulse s = if s.params.halfPeriod ≤ s.ftu.now - s.ftu.lastBoundary
      then boundary { s with ftu := { s.ftu with current := .external, switchPending := false, expiryHeld := false } }
      else { s with ftu := { s.ftu with expiryHeld := true } } := by
  unfold Ftu.lockedPulse
  split
  case h_3 => rfl
  all_goals simp_all

/-- Settles O40. -/
theorem pulseMovesTheMonitorAndPacesFrames : Obligations.PulseMovesTheMonitorAndPacesFrames := by
  intro s elapsed sound expiry loss now good pulsed quiet paced
  obtain ⟨-, -, external, -, -⟩ := sound
  have hits := fun m => (exec_frameRefPulse (m := m) expiry loss).1
  have misses := fun m => (exec_frameRefPulse (m := m) expiry loss).2
  have paces : ∀ f : Ftu, exec (.frameRefPulse elapsed) s = .next (boundary { s with ftu := f }) → f.now = now →
      f.frameCount = s.ftu.frameCount → paced f := fun f run clock count => by
    refine ⟨_, run, rfl, (boundary_ftu _).trans ?_⟩
    rewrite [← clock, ← count]
    rfl
  refine ⟨fun h => ?first, fun n h ok few => ?counts, fun n h bad => ?restarts, fun h ok => ?locked, fun h bad => ?unlocked⟩
  case first =>
    by_cases ok : good
    · exact (hits (.acquiring 1) ok (congrArg (Monitor.pulse true) h)).trans (congrArg _ (if_neg nofun))
    · exact (misses (.acquiring 1) ok (congrArg (Monitor.pulse false) h)).trans (congrArg _ (if_neg (by rw [h]; nofun)))
  case counts =>
    exact (hits (.acquiring (n + 1)) ok (by rw [h]; exact if_pos few)).trans (congrArg _ (if_neg nofun))
  case restarts =>
    exact (misses (.acquiring 1) bad (congrArg (Monitor.pulse false) h)).trans (congrArg _ (if_neg (by rw [h]; nofun)))
  case locked =>
    have locks : s.ftu.monitor.pulse true = .locked := by rcases h with h | h <;> rw [h] <;> rfl
    have run := (hits .locked ok locks).trans (congrArg _ (if_pos rfl))
    refine ⟨fun current requested => ?_, fun requested => ?_, fun current requested => ⟨fun due => ?_, fun early => ?_⟩⟩
    · rw [Ftu.lockedPulse_external (s := s.pulsed now .locked) current requested] at run
      exact paces (pulsed .locked) run rfl rfl
    · rw [Ftu.lockedPulse_internal (s := s.pulsed now .locked) requested] at run
      exact run
    · rw [Ftu.lockedPulse_switch (s := s.pulsed now .locked) current requested, if_pos (by exact due)] at run
      exact paces { pulsed .locked with current := .external, switchPending := false, expiryHeld := false } run rfl rfl
    · rw [Ftu.lockedPulse_switch (s := s.pulsed now .locked) current requested, if_neg (by exact Nat.not_le.2 early)] at run
      exact run
  case unlocked =>
    have run := (misses (.acquiring 1) bad (congrArg (Monitor.pulse false) h)).trans (congrArg _ (if_pos h))
    refine ⟨fun current => ?_, fun current held => ?_, fun current free => ?_⟩
    · rw [Ftu.unlocked_external (s := s.pulsed now (.acquiring 1)) current, Ftu.fallback_eq (s := s.pulsed now (.acquiring 1)) current] at run
      refine ⟨fun early => ?_, fun passed => ?_⟩
      · rw [Ftu.boundaryIfPassed_of_lt (by exact early)] at run
        exact run
      · rw [Ftu.boundaryIfPassed_of_le (by exact passed)] at run
        exact ⟨_, run, rfl, boundary_ftu _⟩
    · rw [Ftu.unlocked_held (s := s.pulsed now (.acquiring 1)) current held, Ftu.release_eq] at run
      refine ⟨fun early => ?_, fun passed => ?_⟩
      · rw [Ftu.boundaryIfPassed_of_lt (by exact early)] at run
        exact run
      · rw [Ftu.boundaryIfPassed_of_le (by exact passed)] at run
        exact paces { pulsed (.acquiring 1) with expiryHeld := false } run rfl rfl
    · rw [Ftu.unlocked_internal (s := s.pulsed now (.acquiring 1)) current free] at run
      exact run

end Sys2Proof.Machine
end

section
/-! PROOF. The commands of the Frame Timing Unit and the writing of parameters: SELECT_SOURCE and SET_PARAMETER (R143 to R146, R182, R183). -/
namespace Sys2Proof.Machine

-- One declaration after another: as one text the file has more of them than it may have threads.
set_option Elab.async false

variable {s u : State} {p : Port} {rest : List Message} {v : Nat}

/-- The answer in a state from which the message has gone. -/
theorem Cx.answer_of_taken {tag : Byte} {r : Reply} (h : u.taken p rest = u) : Cx.answer p tag r u = u.answered p rest tag r.code r.payload := by
  conv_lhs => rw [← h]
  exact Cx.answer_taken

/-! ### SELECT_SOURCE (R143 to R145) -/

/-- The items of SELECT_SOURCE's answer (R144). -/
def Ftu.selectItems (f : Ftu) : List Byte :=
  byteOf f.current.code ++ byteOf f.requested.code ++ flagByte f.switchPending ++ f.monitor.bytes ++ beBytes 4 f.frameCount.toNat

/-- SELECT_SOURCE answers from the state that it leaves. -/
theorem exec_selectSource_leaves {tag : Byte} {source : Source} (h : s.takes .a 0x40 tag (byteOf source.code) rest) (selects : Ftu.select source (s.taken .a rest) = u)
    (taken : u.taken .a rest = u) : exec .selectSource s = .next (u.answered .a rest tag .ok u.ftu.selectItems) := by
  refine congrArg Host.Outcome.next ((Cx.command_of_takes (body := Ftu.selectBody) h (by decide) (fun _ => rfl) (by simp)).trans ?_)
  have body : Ftu.selectBody .a (byteOf source.code) (s.taken .a rest) = (.ok u.ftu.selectItems, u) := by
    rw [← selects]
    cases source <;> rfl
  rw [body]
  exact Cx.answer_of_taken taken

/-- The state with other timing, and a boundary in it, once a message has gone. -/
theorem boundary_ftu_taken {f : Ftu} : let t := boundary { s.taken p rest with ftu := f }
    t.taken p rest = t := by
  have same : ({ s.taken p rest with ftu := f } : State) = ({ s with ftu := f } : State).taken p rest := by cases p <;> rfl
  rw [same]
  exact boundary_taken

theorem Ftu.select_ahead {source : Source} (free : source = .internal → s.ftu.current = .internal → s.ftu.expiryHeld = false)
    (ahead : source = .internal → s.ftu.current = .external → s.ftu.now < s.ftu.nextExpiry) : Ftu.select source s = { s with
      ftu := { s.ftu with requested := source, switchPending := decide (source ≠ s.ftu.current) }
      store := { s.store with nu := if source = .external ∧ s.ftu.current = .internal ∧ s.ftu.requested = .internal
        then s.store.nu.addBoth .refFallback else s.store.nu } } := by
  cases source <;> cases current : s.ftu.current
  · simp [Ftu.select, current, State.onFtu]
  · cases requested : s.ftu.requested <;>
      simp [Ftu.select, current, requested, State.onFtu, State.refOnset, State.onNu, Store.onNu, Nu.onset, Ftu.refFallback]
  · have early := ahead rfl current
    simp [Ftu.select, current, State.onFtu, Nat.not_le.2 early]
  · simp [Ftu.select, current, State.onFtu, free rfl current]

theorem Ftu.select_switches (current : s.ftu.current = .external) (passed : s.ftu.nextExpiry ≤ s.ftu.now) : Ftu.select .internal s =
    boundary { s with ftu := { s.ftu with requested := .internal, current := .internal, switchPending := false } } := by
  simp [Ftu.select, current, State.onFtu, passed]

theorem Ftu.select_releases (current : s.ftu.current = .internal) (held : s.ftu.expiryHeld = true) : Ftu.select .internal s =
    Ftu.boundaryIfPassed { s with ftu := { s.ftu with requested := .internal, switchPending := false, expiryHeld := false } } := by
  simp [Ftu.select, current, State.onFtu, held, Ftu.release]

/-- Settles O39. -/
theorem selectSourceSetsTheRequest : Obligations.SelectSourceSetsTheRequest := by
  refine ⟨fun s tag rest source h => ?_, fun s tag rest code high small h => ?refused⟩
  · intro items leaves paced
    have quiet : ∀ t : State, Ftu.select source (s.taken .a rest) = t.taken .a rest → leaves t := fun t selects => by
      have run := exec_selectSource_leaves h selects rfl
      exact run
    have paces : ∀ f : Ftu, f.now = s.ftu.now → f.frameCount = s.ftu.frameCount →
        Ftu.select source (s.taken .a rest) = boundary { s.taken .a rest with ftu := f } → paced f := fun f clock count selects => by
      refine ⟨exec_selectSource_leaves h selects boundary_ftu_taken, (boundary_ftu _).trans ?_⟩
      rewrite [← clock, ← count]
      rfl
    refine ⟨fun free ahead => ?_, fun internal current passed => ?_, fun internal current held => ⟨fun early => ?_, fun passed => ?_⟩⟩
    · exact quiet _ (Ftu.select_ahead (s := s.taken .a rest) free ahead)
    · subst internal
      exact paces _ rfl rfl (Ftu.select_switches (s := s.taken .a rest) current passed)
    · subst internal
      refine quiet _ ((Ftu.select_releases (s := s.taken .a rest) current held).trans (Ftu.boundaryIfPassed_of_lt ?_))
      exact early
    · subst internal
      refine paces _ rfl rfl ((Ftu.select_releases (s := s.taken .a rest) current held).trans (Ftu.boundaryIfPassed_of_le ?_))
      exact passed
  case refused =>
    refine congrArg Host.Outcome.next (Cx.command_leaves (r := .badField 0) h (by decide) (fun _ => rfl) (by simp) ?_)
    have none : sourceOf code = none := by
      unfold sourceOf
      split <;> first | rfl | omega
    simp only [Ftu.selectBody, natAt_byteOf_alone small, none]

/-! ### What a write of NOMINAL_PERIOD does (R146) -/

theorem State.fallen_of_external (h : s.ftu.requested = .external) : s.fallen = { s with
    ftu := { s.ftu with current := .internal, switchPending := true }
    store := { s.store with nu := s.store.nu.addBoth .refFallback } } := by
  simp [State.fallen, h]

/-- Whether the loss deadline has passed (R136, R146). -/
def State.overdue (s : State) : Prop :=
  s.ftu.monitor ≠ .noReference ∧ ∃ last, s.ftu.lastPulse = some last ∧ last + 3 * s.params.nominalPeriod / 2 ≤ s.ftu.now

theorem Ftu.loseIfPassed_of_overdue (h : s.overdue) : Ftu.loseIfPassed s = Ftu.unlocked (s.lostAt s.ftu.now) := by
  obtain ⟨monitor, last, pulse, passed⟩ := h
  have deadline : s.lossDeadline = some (last + 3 * s.params.nominalPeriod / 2) := by
    rw [State.lossDeadline, if_neg monitor, pulse]
    rfl
  simp only [Ftu.loseIfPassed, deadline, if_pos passed]
  rfl

theorem Ftu.loseIfPassed_of_not (h : ¬ s.overdue) : Ftu.loseIfPassed s = s := by
  rw [Ftu.loseIfPassed]
  split
  · rename_i l deadline
    refine if_neg fun passed => h ?_
    rw [State.lossDeadline] at deadline
    split at deadline
    · cases deadline
    · obtain ⟨last, pulse, rfl⟩ := Option.map_eq_some_iff.1 deadline
      exact ⟨‹_›, last, pulse, passed⟩
  · rfl

theorem Ftu.boundaryIfDue_of_internal (current : s.ftu.current = .internal) : Ftu.boundaryIfDue s = Ftu.boundaryIfPassed s := by
  simp only [Ftu.boundaryIfDue, Ftu.boundaryIfPassed, current, true_and]

theorem Ftu.boundaryIfDue_of_external (current : s.ftu.current = .external) : Ftu.boundaryIfDue s = s := by
  simp [Ftu.boundaryIfDue, current]

theorem Ftu.boundaryIfPassed_overdue : (Ftu.boundaryIfPassed u).overdue ↔ u.overdue := by
  obtain ⟨-, -, -, -, monitor, last, now⟩ := Ftu.boundaryIfPassed_keeps u
  rw [State.overdue, State.overdue, monitor, last, now, Ftu.boundaryIfPassed_work.params]

/-! ### States from which the message has gone -/

/-- Whether the message taken has gone from the port, and the port is the one taken last. -/
def State.Gone (p : Port) (rest : List Message) (u : State) : Prop := (u.port p).messages = rest ∧ u.lastTaken = p

theorem State.gone_taken : (s.taken p rest).Gone p rest := by cases p <;> exact ⟨rfl, rfl⟩

theorem State.Gone.taken_eq (h : u.Gone p rest) : u.taken p rest = u := by
  cases u
  cases p <;> (obtain ⟨rfl, rfl⟩ := h; rfl)

theorem State.Gone.ite {t : State} {c : Prop} [Decidable c] (h : s.Gone p rest) (g : t.Gone p rest) : (if c then s else t).Gone p rest := by
  split
  · exact h
  · exact g

theorem boundary_gone (h : u.Gone p rest) : (boundary u).Gone p rest := by
  have frame := (boundary_leaves u).frame
  rw [State.aged_frame] at frame
  generalize boundary u = t at frame
  rewrite [frame]
  cases p <;> exact h

theorem Ftu.boundaryIfPassed_gone (h : u.Gone p rest) : (Ftu.boundaryIfPassed u).Gone p rest := .ite (boundary_gone h) h

theorem Ftu.unlocked_gone (h : u.Gone p rest) : (Ftu.unlocked u).Gone p rest :=
  .ite (Ftu.boundaryIfPassed_gone h) (.ite (Ftu.boundaryIfPassed_gone h) h)

theorem Ftu.writePeriod_gone (h : u.Gone p rest) : (Ftu.writePeriod v u).Gone p rest := by
  have due : (Ftu.boundaryIfDue (u.repaced v)).Gone p rest := .ite (boundary_gone h) h
  rw [Ftu.writePeriod_eq]
  by_cases overdue : (Ftu.boundaryIfDue (u.repaced v)).overdue
  · rw [Ftu.loseIfPassed_of_overdue overdue]
    exact Ftu.unlocked_gone due
  · rw [Ftu.loseIfPassed_of_not overdue]
    exact due

/-- A parameter stored keeps the messages that wait (R183). -/
theorem Cx.writeParam_gone (q : Param) (h : u.Gone p rest) : (Cx.writeParam q v u).Gone p rest := by
  cases q
  case headroomLimit =>
    rw [show Cx.writeParam .headroomLimit v u = Dt.writeLimit v u from rfl, Dt.writeLimit_eq]
    exact State.Gone.ite (t := u.limited v) (s := Dt.clampAll (u.limited v)) h h
  case nominalPeriod => exact Ftu.writePeriod_gone h
  all_goals exact h

theorem Cx.writeParam_params (q : Param) (v : Nat) (s : State) : (Cx.writeParam q v s).params = s.params.store q v := by
  cases q
  case headroomLimit => exact (Dt.writeLimit_work v).params
  case fallbackGain => exact (Dt.recomputeWhere_work _).params
  case nominalPeriod => exact (Ftu.writePeriod_timed v).params
  all_goals rfl

/-- A parameter that no block recomputes, repaces or compares with: its storing, and what arms or restarts with it (R79, R101, R183). -/
theorem Cx.writeParam_plain {q : Param} (h : q ∉ [Param.headroomLimit, .fallbackGain, .poolLowThreshold, .nominalPeriod]) :
    Cx.writeParam q v s = { s with
      params := s.params.store q v
      driftCounter := if q = .driftGap then 0 else s.driftCounter
      cd := if q = .ditherSeed then { s.cd with seedArmed := true } else s.cd } := by
  cases q <;> first | rfl | exact absurd (by decide) h

/-- A kind is added where its condition turns from false to true (R191). -/
theorem Nu.onset_eq {e : Event} {before after : Bool} {n : Nu} :
    Nu.onset e before after n = if before = false ∧ after = true then n.addBoth e else n := by
  cases before <;> cases after <;> rfl

/-- POOL_LOW is added where its condition begins with the threshold (R16). -/
theorem Cx.writeParam_pool : Cx.writeParam .poolLowThreshold v s = { s with
    params := { s.params with poolLowThreshold := v }
    store := { s.store with nu := if s.params.poolLowThreshold ≤ s.freeQueue.length ∧ s.freeQueue.length < v
      then s.store.nu.addBoth .poolLow else s.store.nu } } := by
  have onset : Nu.onset .poolLow s.poolLow ({ s with params := { s.params with poolLowThreshold := v } } : State).poolLow s.store.nu =
      if s.params.poolLowThreshold ≤ s.freeQueue.length ∧ s.freeQueue.length < v then s.store.nu.addBoth .poolLow else s.store.nu := by
    rw [Nu.onset_eq]
    exact if_congr (and_congr (decide_eq_false_iff_not.trans Nat.not_lt) decide_eq_true_iff) rfl rfl
  rw [← onset]
  rfl

theorem Ftu.writePeriod_quiet (early : s.ftu.current = .internal → s.ftu.now < s.ftu.lastBoundary + v)
    (live : ∀ last, s.ftu.lastPulse = some last → s.ftu.now < last + 3 * v / 2) : Ftu.writePeriod v s = s.repaced v := by
  have due : Ftu.boundaryIfDue (s.repaced v) = s.repaced v := if_neg fun ⟨current, passed⟩ => by
    have := early current
    have : s.ftu.lastBoundary + v ≤ s.ftu.now := passed
    omega
  rw [Ftu.writePeriod_eq, due]
  refine Ftu.loseIfPassed_of_not fun ⟨_, last, pulse, passed⟩ => ?_
  have := live last pulse
  have : last + 3 * v / 2 ≤ s.ftu.now := passed
  omega

/-! ### SET_PARAMETER (R183) -/

section
variable {number value : Nat} {q : Param}

/-- An accepted SET_PARAMETER answers in the state that its storing leaves. -/
theorem exec_setParameter_answers {tag : Byte} (hq : paramOf number = some q) (hv : value < 2 ^ 32)
    (h : s.takes .a 0x01 tag (byteOf number ++ beBytes 4 value) rest)
    (listed : q.enumerated = true → q.taken value = value) (idle : q = .nominalPeriod → s.ftu.switchPending = false) :
    exec .setParameter s = .next ((Cx.writeParam q (q.taken value) (s.taken .a rest)).answered .a rest tag
      (if q.range.1 ≤ value ∧ value ≤ q.range.2 then .ok else .clamped) (byteOf number ++ beBytes 4 (q.taken value))) := by
  rw [exec_setParameter_stores hq hv h listed idle, Cx.answer_of_taken (Cx.writeParam_gone q State.gone_taken).taken_eq]

end

/-- Settles O11. -/
theorem setParameterStoresOrIsRefused : Obligations.SetParameterStoresOrIsRefused := by
  unfold Obligations.SetParameterStoresOrIsRefused
  refine ⟨fun s tag rest number value q hq hv h flags idle => ?_, fun s tag rest number value hn hv h =>
    ⟨fun none => ?unlisted, fun flag high => ?untaken, fun period waits => ?busy⟩⟩
  · intro v code
    have listed : q.enumerated = true → q.taken value = value := fun enumerated => by
      refine Param.taken_eq_iff.2 ?_
      cases q <;> first | exact absurd enumerated (by decide) | exact ⟨Nat.zero_le _, flags (by decide)⟩
    have run := exec_setParameter_answers hq hv h listed idle
    refine ⟨⟨_, run, ?_, ?_⟩, fun other => ?_, fun pool => ?_, fun period early live => ?_, fun period sound => ?_⟩
    · rw [Cx.writeParam_params, State.taken_params]
      rfl
    · exact ((Cx.writeParam_bodied (Param.taken_mem q value)).answers .a).trans (State.taken_answers (q := .a))
    · rw [run, Cx.writeParam_plain other]
      rfl
    · subst pool
      rw [run, Cx.writeParam_pool]
      rfl
    · subst period
      rw [run, show Cx.writeParam .nominalPeriod _ _ = Ftu.writePeriod _ _ from rfl, Ftu.writePeriod_quiet (s := s.taken .a rest) (v := Param.nominalPeriod.taken value) early live]
      rfl
    · subst period
      intro written expired lost gone fallen leaves
      have waits := idle rfl
      obtain ⟨pending, held, -, -, -⟩ := sound
      have agree : s.ftu.requested = s.ftu.current := by
        by_contra differ
        exact absurd (pending.2 differ) (by simp [waits])
      have free : s.ftu.expiryHeld = false := by
        by_contra h
        obtain ⟨current, requested, -⟩ := held (by simpa using h)
        exact nomatch current.symm.trans (agree.symm.trans requested)
      have answers : ∀ u : State, Ftu.loseIfPassed (Ftu.boundaryIfDue written) = u → leaves u := fun u h => by
        rw [← h]
        exact run
      refine ⟨fun current => ?_, fun current => ?_⟩
      · have due : Ftu.boundaryIfDue written = Ftu.boundaryIfPassed written := Ftu.boundaryIfDue_of_internal current
        have early : ¬ expired → Ftu.boundaryIfDue written = written := fun h => due.trans (Ftu.boundaryIfPassed_of_lt (Nat.not_le.1 h))
        have late : expired → Ftu.boundaryIfDue written = boundary written := fun h => due.trans (Ftu.boundaryIfPassed_of_le h)
        have overdue : expired → ((boundary written).overdue ↔ lost) := fun h => by
          rw [← Ftu.boundaryIfPassed_of_le (s := written) h]
          exact Ftu.boundaryIfPassed_overdue
        refine ⟨fun h l => answers _ ?_, fun h l => ⟨answers _ ?_, boundary_ftu _⟩, fun h l => answers _ ?_, fun h l => answers _ ?_⟩
        · rw [early h]
          exact Ftu.loseIfPassed_of_not l
        · rw [late h]
          exact Ftu.loseIfPassed_of_not (mt (overdue h).1 l)
        · rw [early h, Ftu.loseIfPassed_of_overdue (s := written) l]
          exact Ftu.unlocked_internal (s := written.lostAt _) current free
        · have kept : (boundary written).ftu = _ := boundary_ftu written
          rw [late h, Ftu.loseIfPassed_of_overdue ((overdue h).2 l), Ftu.unlocked_internal]
          · rfl
          · exact (congrArg Ftu.current kept).trans current
          · exact (congrArg Ftu.expiryHeld kept).trans free
      · have due : Ftu.boundaryIfDue written = written := Ftu.boundaryIfDue_of_external current
        rw [due] at answers
        have falls : lost → Ftu.loseIfPassed written = Ftu.boundaryIfPassed fallen := fun l => by
          rw [Ftu.loseIfPassed_of_overdue (s := written) l, Ftu.unlocked_external (s := written.lostAt _) current,
            Ftu.fallback_eq (s := written.lostAt _) current]
          have external : s.ftu.requested = .external := agree.trans current
          exact congrArg Ftu.boundaryIfPassed (State.fallen_of_external (s := written.lostAt _) external)
        refine ⟨fun l => answers _ (Ftu.loseIfPassed_of_not (s := written) l), fun h l => answers _ ?_, fun h l => ⟨answers _ ?_, boundary_ftu _⟩⟩
        · rw [falls l]
          exact Ftu.boundaryIfPassed_of_lt (s := fallen) (Nat.not_le.1 h)
        · rw [falls l]
          exact Ftu.boundaryIfPassed_of_le (s := fallen) h
  all_goals obtain ⟨first, second⟩ := setParameter_operands hn hv
  case unlisted =>
    refine congrArg Host.Outcome.next (Cx.command_leaves (r := .badField 0) h (by decide) (fun _ => rfl) (by simp) ?_)
    simp only [Cx.setParameterBody, first, paramOf_eq_none none]
  case untaken =>
    refine congrArg Host.Outcome.next (Cx.command_leaves (r := .badField 1) h (by decide) (fun _ => rfl) (by simp) ?_)
    rcases flag with rfl | rfl | rfl <;>
      simp [Cx.setParameterBody, first, second, paramOf, Param.enumerated, Param.taken_eq_iff, Param.range, Nat.not_le.2 high]
  case busy =>
    subst period
    refine congrArg Host.Outcome.next (Cx.command_leaves (r := .bare .busy) h (by decide) (fun _ => rfl) (by simp) ?_)
    simp only [Cx.setParameterBody, first]
    simp [paramOf, waits, Param.enumerated]

end Sys2Proof.Machine
end

section
/-! PROOF. A record created in the slot that an allocation gives, and what the two commands that create one do with it (R3, R13 to R16, R19). -/
namespace Sys2Proof.Machine

-- One declaration after another: as one text the file has more of them than it may have threads.
set_option Elab.async false

variable {s : State} {p : Port} {rest : List Message} {slot x batch : Nat} {queue : List Nat} {retired : Option Nat} {byLoad : Bool}

/-! ### A creation (R3, R13) -/

/-- The state that an allocation leaves: the slot off the queue, its record retired and counted in RECLAIMS where it had one (R13, R14). -/
def State.vacated (slot : Nat) (queue : List Nat) (retired : Option Nat) (s : State) : State :=
  retired.elim { s with freeQueue := queue } fun _ => { (Rt.retire slot s).count .reclaims with freeQueue := queue }

/-- The state that a creation with its allocation leaves (R3, R13, R16). -/
def State.creates (slot x batch : Nat) (queue : List Nat) (retired : Option Nat) (byLoad : Bool) (s : State) : State :=
  (Rt.create slot x batch byLoad (s.vacated slot queue retired)).poolOnset s.poolLow

theorem Rt.allocate_of_vacated (wf : Table.wf Record.blank s.store.records) (h : s.allocates slot queue retired) :
    Rt.allocate s = (some (slot, retired.getD 0), s.vacated slot queue retired) := by
  rw [Rt.allocate_of_allocates wf h]
  rfl

theorem Rt.allocateCreate_of_allocates (wf : Table.wf Record.blank s.store.records) (h : s.allocates slot queue retired) :
    Rt.allocateCreate x batch byLoad s = (some (slot, retired.getD 0), s.creates slot x batch queue retired byLoad) := by
  simp only [Rt.allocateCreate, Rt.allocate_of_vacated wf h, State.creates]

theorem Rt.create_taken : Rt.create slot x batch byLoad (s.taken p rest) = (Rt.create slot x batch byLoad s).taken p rest := by
  rw [Rt.create_eq, Rt.create_eq, ← State.onStore_taken]
  cases p <;> rfl

theorem State.poolOnset_taken {before : Bool} : (s.taken p rest).poolOnset before = (s.poolOnset before).taken p rest := by cases p <;> rfl

theorem State.vacated_taken : (s.taken p rest).vacated slot queue retired = (s.vacated slot queue retired).taken p rest := by
  cases p <;> cases retired <;> rfl

theorem State.creates_taken : (s.taken p rest).creates slot x batch queue retired byLoad = (s.creates slot x batch queue retired byLoad).taken p rest := by
  rw [State.creates, State.vacated_taken, Rt.create_taken, State.poolOnset_taken, State.creates]
  cases p <;> rfl

/-- Whether the targets of a record that begins with a batch are limited (R9, R89, R90). -/
def State.limitsNew (s : State) (batch : Nat) : Bool :=
  isLimited s.params.headroomLimit (batchBank s.batches s.params.fallbackGain batch).2 none 0

/-- A record as it begins: NEW, its gains at the targets of the bank that serves its batch (R3). -/
def State.newRecord (s : State) (x batch : Nat) (byLoad : Bool) : Record := { Record.created x batch s.ftu.frameCount byLoad with
  target := targetsOf s.params.headroomLimit (batchBank s.batches s.params.fallbackGain batch).2 none 0
  applied := targetsOf s.params.headroomLimit (batchBank s.batches s.params.fallbackGain batch).2 none 0
  ceiling := s.limitsNew batch }

/-- The counters and the event kinds once a record has been created (R14, R16, R90). -/
def State.createdNu (s : State) (batch : Nat) (queue : List Nat) (retired : Option Nat) : Nu :=
  let counted := retired.elim s.store.nu fun _ => s.store.nu.count .reclaims 1
  let nu := if s.limitsNew batch then counted.addBoth .ceiling else counted
  if s.params.poolLowThreshold ≤ s.freeQueue.length ∧ queue.length < s.params.poolLowThreshold then nu.addBoth .poolLow else nu

/-- What a creation leaves: the record at the targets of the bank that serves its batch, its index entry, and nothing else but for the pool and
what is counted and added (R3, R10, R13). -/
structure State.Creates (s : State) (slot x batch : Nat) (queue : List Nat) (retired : Option Nat) (byLoad : Bool) (t : State) : Prop where
  frame : t = { s with
    index := t.index, freeQueue := queue, store := { s.store with records := t.store.records, nu := s.createdNu batch queue retired } }
  canonical : t.canonical
  own : t.record slot = s.newRecord x batch byLoad
  others : ∀ n, n ≠ slot → t.record n = s.record n
  lookup : ∀ y, t.lookup y = if y = x then some ⟨slot, batch⟩ else if some y = retired then none else s.lookup y

/-- What the allocation leaves. -/
theorem State.vacated_facts (canonical : s.canonical) (clean : s.clean) (h : s.allocates slot queue retired) :
    let b := s.vacated slot queue retired
    b.canonical ∧ (b = { s with index := b.index, freeQueue := queue, store := { s.store with
        records := b.store.records, nu := retired.elim s.store.nu fun _ => s.store.nu.count .reclaims 1 } }) ∧
      (∀ n, n ≠ slot → b.record n = s.record n) ∧ ∀ y, b.lookup y = if some y = retired then none else s.lookup y := by
  rcases h with ⟨-, rfl⟩ | ⟨-, -, -, -, rfl⟩
  · exact ⟨canonical, rfl, fun _ _ => rfl, fun y => by simp [State.vacated, State.lookup]⟩
  · obtain ⟨records, index, others⟩ := id canonical
    refine ⟨⟨Table.wf_set records, Table.wf_set index, others⟩, ?_, fun n hn => Store.get_put_ne hn, fun y => ?_⟩
    · have none_ : s.store.damage = [] := clean
      simp [State.vacated, Rt.retire, State.count, State.onNu, Store.onNu, Store.mend, Store.put, none_, Nu.count]
    · split
      · rename_i hy
        cases hy
        exact Table.get_set_same index
      · rename_i hy
        exact Table.get_set_ne fun e => hy (congrArg some e)

theorem Rt.create_frame : Rt.create slot x batch byLoad s = { s with
    index := Table.set none x (some ⟨slot, batch⟩) s.index, store := (Rt.create slot x batch byLoad s).store } := by
  rw [Rt.create_eq]
  rfl

theorem Rt.enter_store (clean : s.clean) : (Rt.enter slot x batch byLoad s).store =
    { s.store with records := (Rt.enter slot x batch byLoad s).store.records } := by
  have none_ : s.store.damage = [] := clean
  simp [Rt.enter, Store.mend, Store.put, none_]

/-- A creation up to the check of POOL_LOW: the record at its targets, and CEILING where they are limited (R3, R90). -/
theorem Rt.create_facts (canonical : s.canonical) (clean : s.clean) : let t := Rt.create slot x batch byLoad s
    t = { s with index := t.index, store := { s.store with
      records := t.store.records, nu := if s.limitsNew batch then s.store.nu.addBoth .ceiling else s.store.nu } } ∧
    t.record slot = s.newRecord x batch byLoad ∧
    (∀ n, n ≠ slot → t.record n = s.record n) ∧ ∀ y, t.lookup y = if y = x then some ⟨slot, batch⟩ else s.lookup y := by
  intro t
  let bank := (batchBank s.batches s.params.fallbackGain batch).2
  obtain ⟨records, index, -⟩ := canonical
  have own := Rt.enter_record_same (slot := slot) (x := x) (batch := batch) (byLoad := byLoad) records
  have wf : Table.wf Record.blank (Rt.enter slot x batch byLoad s).store.records := Table.wf_set records
  have made : t.store = Dt.retarget (Rt.enter slot x batch byLoad s).ctx .set slot bank (Rt.enter slot x batch byLoad s).store :=
    congrArg State.store (Rt.create_eq slot x batch byLoad s)
  have limit : (Rt.enter slot x batch byLoad s).ctx.limit = s.params.headroomLimit := rfl
  refine ⟨?_, ?_, fun n hn => ?_, fun y => ?_⟩
  · have frame := Dt.retarget_frame (cx := (Rt.enter slot x batch byLoad s).ctx) (after := .set) (n := slot) (bank := bank)
      (st := (Rt.enter slot x batch byLoad s).store)
    have nu := Dt.retarget_nu (cx := (Rt.enter slot x batch byLoad s).ctx) (after := .set) (n := slot) (bank := bank)
      (st := (Rt.enter slot x batch byLoad s).store)
    have entered := Rt.enter_store (slot := slot) (x := x) (batch := batch) (byLoad := byLoad) clean
    rw [State.record] at own
    rw [← made, limit] at nu
    rw [← made] at frame
    rw [own] at nu
    generalize (Rt.enter slot x batch byLoad s).store = st at frame nu entered
    have counted : t.store.nu = if s.limitsNew batch then s.store.nu.addBoth .ceiling else s.store.nu := by
      rw [nu, show st.nu = s.store.nu from (congrArg Store.nu entered).trans rfl]
      exact if_congr ⟨And.right, fun h => ⟨rfl, h⟩⟩ rfl rfl
    have store : t.store = { s.store with records := t.store.records, nu := t.store.nu } := by conv_lhs => rw [frame, entered]
    rw [← counted, ← store]
    exact Rt.create_frame
  · rw [State.record, made, Dt.get_retarget_same wf]
    rw [State.record] at own
    rw [own, limit]
    rfl
  · rw [State.record, made, Dt.get_retarget_ne hn]
    exact Rt.enter_record_ne hn
  · have entered : t.index = (Rt.enter slot x batch byLoad s).index := (congrArg State.index Rt.create_frame).trans rfl
    rw [State.lookup, entered]
    exact Rt.enter_lookup index y

/-- The state of the Notification Unit replaced. -/
def State.withNu (nu : Nu) (s : State) : State := { s with store := { s.store with nu := nu } }

@[simp] theorem State.withNu_record {n : Nat} {nu : Nu} : (s.withNu nu).record n = s.record n := rfl
@[simp] theorem State.withNu_lookup {y : Nat} {nu : Nu} : (s.withNu nu).lookup y = s.lookup y := rfl

theorem State.poolOnset_eq {before : Bool} : s.poolOnset before = s.withNu (Nu.onset .poolLow before s.poolLow s.store.nu) := rfl

/-- A creation assembled: the allocation, the record entered, and the check of POOL_LOW. -/
theorem State.Creates.assemble {b c : State} {nu : Nu} (vacates : b = { s with index := b.index, freeQueue := queue, store := { s.store with
      records := b.store.records, nu := retired.elim s.store.nu fun _ => s.store.nu.count .reclaims 1 } })
    (others : ∀ n, n ≠ slot → b.record n = s.record n) (lookup : ∀ y, b.lookup y = if some y = retired then none else s.lookup y)
    (created : c = { b with index := c.index, store := { b.store with records := c.store.records, nu := nu } })
    (own : c.record slot = s.newRecord x batch byLoad) (untouched : ∀ n, n ≠ slot → c.record n = b.record n)
    (entered : ∀ y, c.lookup y = if y = x then some ⟨slot, batch⟩ else b.lookup y)
    (canonical : (c.withNu (s.createdNu batch queue retired)).canonical) :
    s.Creates slot x batch queue retired byLoad (c.withNu (s.createdNu batch queue retired)) where
  frame := by
    generalize s.createdNu batch queue retired = nu'
    rw [State.withNu]
    conv_lhs => rw [created, vacates]
  canonical := canonical
  own := State.withNu_record.trans own
  others n hn := State.withNu_record.trans ((untouched n hn).trans (others n hn))
  lookup y := State.withNu_lookup.trans ((entered y).trans (by rw [lookup]))

theorem State.creates_creates (canonical : s.canonical) (clean : s.clean) (h : s.allocates slot queue retired) :
    s.Creates slot x batch queue retired byLoad (s.creates slot x batch queue retired byLoad) := by
  obtain ⟨kept, frame, others, lookup⟩ := State.vacated_facts canonical clean h
  have made := (State.Work.trans (Rt.create_work (slot := slot) (byLoad := byLoad) x batch) (.poolOnset s.poolLow)).canonical kept
  rw [State.creates]
  generalize s.vacated slot queue retired = b at kept frame others lookup made
  have same : b.clean ∧ b.params = s.params ∧ b.batches = s.batches ∧ b.ftu = s.ftu := by
    rw [frame]
    exact ⟨clean, rfl, rfl, rfl⟩
  obtain ⟨whole, params, batches, ftu⟩ := same
  have limits : b.limitsNew batch = s.limitsNew batch := by rw [State.limitsNew, params, batches, ← State.limitsNew]
  have new : b.newRecord x batch byLoad = s.newRecord x batch byLoad := by
    rw [State.newRecord, limits, params, batches, ftu, ← State.newRecord]
  obtain ⟨created, own, untouched, entered⟩ := Rt.create_facts (slot := slot) (x := x) (batch := batch) (byLoad := byLoad) kept whole
  rw [limits] at created
  rw [new] at own
  generalize Rt.create slot x batch byLoad b = c at created own untouched entered made
  have pool : Nu.onset .poolLow s.poolLow c.poolLow c.store.nu = s.createdNu batch queue retired := by
    have counted : b.store.nu = retired.elim s.store.nu fun _ => s.store.nu.count .reclaims 1 := (congrArg (fun u => u.store.nu) frame).trans rfl
    have added : c.store.nu = if s.limitsNew batch then b.store.nu.addBoth .ceiling else b.store.nu :=
      (congrArg (fun u => u.store.nu) created).trans rfl
    have low : c.poolLow = decide (queue.length < s.params.poolLowThreshold) := by
      rw [State.poolLow, State.freeCount, created]
      dsimp only
      rw [params, frame]
    rw [Nu.onset_eq, added, counted, low, State.createdNu]
    exact if_congr (and_congr (decide_eq_false_iff_not.trans Nat.not_lt) decide_eq_true_iff) rfl rfl
  rw [State.poolOnset_eq, pool] at made ⊢
  exact .assemble frame others lookup created own untouched entered made

theorem State.allocates_taken : (s.taken p rest).allocates slot queue retired ↔ s.allocates slot queue retired := by
  simp [State.allocates, State.reclaims, State.mayReclaim]

theorem State.allocatesNone_taken : (s.taken p rest).allocatesNone ↔ s.allocatesNone := by
  simp [State.allocatesNone, State.mayReclaim]

/-- An allocation with its creation, once a message has gone. -/
theorem Rt.allocateCreate_taken (wf : Table.wf Record.blank s.store.records) (h : s.allocates slot queue retired) :
    Rt.allocateCreate x batch byLoad (s.taken p rest) =
      (some (slot, retired.getD 0), (s.creates slot x batch queue retired byLoad).taken p rest) := by
  rw [Rt.allocateCreate_of_allocates (by rwa [State.taken_store]) (State.allocates_taken.2 h), State.creates_taken]

/-- The same, with what it leaves. -/
theorem Rt.allocateCreate_creates (canonical : s.canonical) (clean : s.clean) (h : s.allocates slot queue retired) :
    ∃ c, s.Creates slot x batch queue retired byLoad c ∧
      Rt.allocateCreate x batch byLoad (s.taken p rest) = (some (slot, retired.getD 0), c.taken p rest) :=
  ⟨_, State.creates_creates canonical clean h, Rt.allocateCreate_taken canonical.1 h⟩

theorem Rt.allocateCreate_taken_none (h : s.allocatesNone) : Rt.allocateCreate x batch byLoad (s.taken p rest) = (none, s.taken p rest) := by
  simp only [Rt.allocateCreate, Rt.allocate_of_allocatesNone (State.allocatesNone_taken.2 h)]

/-- What a creation leaves alone. -/
theorem State.Creates.kept {t : State} (h : s.Creates slot x batch queue retired byLoad t) :
    (s.clean → t.clean) ∧ t.seats = s.seats ∧ t.ftu = s.ftu ∧ t.freeQueue = queue ∧ t.load = s.load ∧ t.params = s.params := by
  rw [h.frame]
  exact ⟨id, rfl, rfl, rfl, rfl, rfl⟩

/-! ### CREATE_RECORD (R19) -/

/-- A record just created placed at the seat that is UNRECORDED with its identity, where there is one (R19, R36). -/
def State.seatedAt (slot : Nat) (frame : FrameCount) (place : Option Nat) (s : State) : State :=
  place.elim s fun n => (s.setSeat n { s.seat n with kind := .placed slot }).modify slot fun r => { r with seat := some n, lastSeen := frame }

theorem State.seatedAt_taken {frame : FrameCount} {place : Option Nat} : (s.taken p rest).seatedAt slot frame place = (s.seatedAt slot frame place).taken p rest := by
  cases place with
  | none => rfl
  | some n => cases p <;> rfl

/-- What the placing of a record just created leaves (R36). -/
theorem State.seatedAt_facts (canonical : s.canonical) {frame : FrameCount} {place : Option Nat} : let t := s.seatedAt slot frame place
    t = { s with seats := t.seats, store := { s.store with records := t.store.records } } ∧
    t.record slot = { s.record slot with seat := place.elim (s.record slot).seat some, lastSeen := place.elim (s.record slot).lastSeen fun _ => frame } ∧
    (∀ n, n ≠ slot → t.record n = s.record n) ∧ ∀ n, t.seat n = if some n = place then { s.seat n with kind := .placed slot } else s.seat n := by
  cases place with
  | none => exact ⟨rfl, rfl, fun _ _ => rfl, fun _ => rfl⟩
  | some k =>
    refine ⟨rfl, Store.get_modify_same canonical.1, fun n hn => Store.get_modify_ne hn, fun n => ?_⟩
    refine (State.seat_setSeat canonical.2.2.2.1).trans ?_
    by_cases h : n = k
    · subst h
      rw [if_pos rfl, if_pos rfl]
    · rw [if_neg h, if_neg fun e => h (Option.some.inj e)]

/-- CREATE_RECORD of an identity without a record that gets a slot (R19). -/
theorem Rt.createBody_creates {c : State} {taken : Nat} (pos : 0 < x) (hx : x < 2 ^ 48) (hb : batch < 65536) (new : s.lookup x = none)
    (created : Rt.allocateCreate x batch false s = (some (slot, taken), c)) (clean : c.clean) :
    Rt.createBody p (beBytes 6 x ++ u16 batch) s = (.ok (u16 slot ++ optU16 (unrecordedSeatOf c.seats x) ++ beBytes 6 taken ++ u16 c.freeQueue.length),
      c.seatedAt slot c.ftu.frameCount (unrecordedSeatOf c.seats x)) := by
  have identity : natAt (beBytes 6 x ++ u16 batch) 0 6 = x := natAt_beBytes hx _
  have code : natAt (beBytes 6 x ++ u16 batch) 6 2 = batch := by
    rw [natAt_append_right (by simp)]
    exact natAt_u16_alone hb
  simp only [Rt.createBody, identity, if_neg (Nat.ne_of_gt pos), new, code, created]
  cases unrecordedSeatOf c.seats x with
  | none => rfl
  | some n =>
    dsimp only
    rw [State.writeStateWord_clean (by exact clean)]
    rfl

/-- Settles O15. -/
theorem createRecordCreatesOrIsRefused : Obligations.CreateRecordCreatesOrIsRefused := by
  refine ⟨fun s p tag rest x batch slot queue retired canonical clean pos hx hb h new gives => ?_, fun s p tag rest x batch hx h =>
    ⟨fun zero => ?zero, fun pos e known => ?known, fun pos new none_ => ?poolEmpty⟩⟩
  · obtain ⟨c, made, created⟩ := Rt.allocateCreate_creates (x := x) (batch := batch) (byLoad := false) (p := p) (rest := rest) canonical clean gives
    obtain ⟨whole, seats, ftu, pool, -⟩ := made.kept
    have run := Rt.createBody_creates (p := p) pos hx hb (by rwa [State.taken_lookup]) created (State.taken_clean.2 (whole clean))
    rw [State.taken_seats, State.taken_freeQueue, State.taken_ftu, State.seatedAt_taken, seats, ftu, pool] at run
    generalize unrecordedSeatOf s.seats x = place at run ⊢
    obtain ⟨frame, own, others, seat⟩ := State.seatedAt_facts (slot := slot) (frame := s.ftu.frameCount) (place := place) made.canonical
    generalize c.seatedAt slot s.ftu.frameCount place = t at run frame own others seat
    refine ⟨t, congrArg Host.Outcome.next (Cx.command_leaves h (by decide) (by nofun) (by simp) run), ?_, ?_, fun n hn => (others n hn).trans (made.others n hn),
      fun y => ?_, fun n => ?_⟩
    · have index : t.index = c.index := (congrArg State.index frame).trans rfl
      show t = { s with index := t.index, freeQueue := queue, seats := t.seats, store := { s.store with
        records := t.store.records, nu := s.createdNu batch queue retired } }
      rw [index]
      conv_lhs => rw [frame, made.frame]
    · rw [own, made.own]
      cases place <;> rfl
    · rw [← made.lookup, State.lookup, State.lookup, frame]
    · rw [seat, State.seat, State.seat, seats]
  all_goals have identity : natAt (beBytes 6 x ++ u16 batch) 0 6 = x := natAt_beBytes hx _
  case zero =>
    refine congrArg Host.Outcome.next (Cx.command_leaves (r := .badField 0) h (by decide) (by nofun) (by simp) ?_)
    simp only [Rt.createBody, identity, if_pos zero]
  case known =>
    refine congrArg Host.Outcome.next (Cx.command_leaves (r := ⟨.exists_, u16 e.slot⟩) h (by decide) (by nofun) (by simp) ?_)
    simp only [Rt.createBody, identity, if_neg (Nat.ne_of_gt pos), State.taken_lookup, known]
  case poolEmpty =>
    refine congrArg Host.Outcome.next (Cx.command_leaves (r := .bare .poolEmpty) h (by decide) (by nofun) (by simp) ?_)
    simp only [Rt.createBody, identity, if_neg (Nat.ne_of_gt pos), State.taken_lookup, new, Rt.allocateCreate_taken_none none_]

/-! ### LOAD_RECORD (R162 to R164) -/

/-- A record taken into the load with a bank (R163). -/
def Record.takenWith (bank : Bank) (r : Record) : Record := { r.setBank r.pendingIx bank with
  hold := .load, condition := .frozen, pendingDamaged := false, expectedCrc := bankCrc bank }

/-- The load with one record more (R163). -/
def Load.joined (slot timer : Nat) (l : Load) : Load :=
  { l with list := l.list ++ [slot], lastSlot := some slot, remaining := l.remaining - 1, timer := timer }

/-- The state with a record taken into the load, before it may complete (R163). -/
def State.joined (slot : Nat) (bank : Bank) (s : State) : State :=
  { s.modify slot (Record.takenWith bank) with load := s.load.joined slot s.params.holdTimeout }

/-- The state that LOAD_RECORD leaves of a record that it takes (R163, R164). -/
def State.accepted (slot : Nat) (bank : Bank) (s : State) : State :=
  if s.load.remaining = 0 then Bl.completing (s.joined slot bank) else s.joined slot bank

theorem State.joined_taken {bank : Bank} : (s.taken p rest).joined slot bank = (s.joined slot bank).taken p rest := by cases p <;> rfl

theorem State.accepted_taken {bank : Bank} : (s.taken p rest).accepted slot bank = (s.accepted slot bank).taken p rest := by
  rw [State.accepted, State.accepted, State.taken_load, State.joined_taken]
  split
  · rw [Bl.completing_eq, Bl.completing_eq, State.taken_load, State.taken_modifyAll]
    cases p <;> rfl
  · rfl

theorem Bl.accept_eq {bank : Bank} {created : Bool} {taken : Nat} (canonical : s.canonical) (clean : s.clean) (valid : bank.valid = true) :
    Bl.accept slot created taken (recordImage x batch bank) s = (.ok (u16 slot ++ flagByte created ++ halfBytes (bankCrc bank) ++
      beInt 2 (s.load.remaining - 1) ++ beBytes 6 taken ++ (if s.load.remaining = 0 then beBytes 4 (s.ftu.frameCount + 1).toNat else [])),
      s.accepted slot bank) := by
  have joined : ({ (s.fillPending slot bank).modify slot fun r => { r with
      hold := .load, condition := .frozen, pendingDamaged := false, expectedCrc := bankCrc bank } with
      load := s.load.joined slot s.params.holdTimeout } : State) = s.joined slot bank := by
    rw [State.fillPending_clean clean, State.modify_modify canonical.1]
    rfl
  have last : s.load.remaining - 1 = -1 ↔ s.load.remaining = 0 := by omega
  have body : Bl.accept slot created taken (recordImage x batch bank) s =
      if (s.joined slot bank).load.remaining = -1
      then (.ok (u16 slot ++ flagByte created ++ halfBytes (bankCrc bank) ++ beInt 2 (s.load.remaining - 1) ++ beBytes 6 taken ++
        beBytes 4 (s.ftu.frameCount + 1).toNat), Bl.completing (s.joined slot bank))
      else (.ok (u16 slot ++ flagByte created ++ halfBytes (bankCrc bank) ++ beInt 2 (s.load.remaining - 1) ++ beBytes 6 taken),
        s.joined slot bank) := by
    rw [← joined, Bl.accept]
    simp only [imageBank_recordImage, bankOf_bankImage valid]
    rfl
  rw [body, State.accepted, show (s.joined slot bank).load.remaining = s.load.remaining - 1 from rfl]
  simp only [last]
  split
  · rfl
  · rw [List.append_nil]

theorem State.modifyAll_record {k : Nat} {f : Record → Record} (wf : Table.wf Record.blank s.store.records) (idem : ∀ r, f (f r) = f r) (slots : List Nat) :
    (s.modifyAll f slots).record k = if k ∈ slots then f (s.record k) else s.record k := by
  induction slots generalizing s with
  | nil => rfl
  | cons n slots ih =>
    rw [State.modifyAll, List.foldl_cons, ← State.modifyAll, ih (Store.modify_records_wf wf)]
    by_cases hk : k = n
    · subst hk
      rw [State.record_modify_same _ wf, idem, ite_self, if_pos List.mem_cons_self]
    · rw [State.record_modify_ne _ hk]
      simp only [List.mem_cons, hk, false_or]

/-- What LOAD_RECORD leaves of a record that it takes (R163, R164). -/
theorem State.accepted_facts {bank : Bank} (canonical : s.canonical) : let t := s.accepted slot bank
    let last := s.load.remaining = 0
    let final := fun (r : Record) => if last then r.scheduled else r
    t = { s with load := t.load, store := { s.store with records := t.store.records } } ∧
    t.load = { s.load.joined slot s.params.holdTimeout with
      state := if last then .committing else s.load.state, scheduled := t.load.scheduled } ∧
    (∀ n, n ∈ t.load.scheduled ↔ n ∈ s.load.scheduled ∨ last ∧ (n ∈ s.load.list ∨ n = slot)) ∧
    (¬ last → t.load.scheduled = s.load.scheduled) ∧
    t.record slot = final ((s.record slot).takenWith bank) ∧
    ∀ k, k ≠ slot → t.record k = if k ∈ s.load.list then final (s.record k) else s.record k := by
  intro t last final
  have wf := canonical.1
  have own : (s.joined slot bank).record slot = (s.record slot).takenWith bank := State.record_modify_same _ wf
  have others : ∀ k, k ≠ slot → (s.joined slot bank).record k = s.record k := fun k hk => State.record_modify_ne _ hk
  by_cases h : s.load.remaining = 0
  · have done : t = _ := (if_pos h).trans (Bl.completing_eq (s.joined slot bank))
    have record : ∀ k, t.record k = if k ∈ (s.joined slot bank).load.list then ((s.joined slot bank).record k).scheduled
        else (s.joined slot bank).record k := fun k => by
      rw [done]
      exact State.modifyAll_record (f := Record.scheduled) (Store.modify_records_wf wf) (fun _ => rfl) _
    have listed : ∀ k, k ∈ (s.joined slot bank).load.list ↔ k ∈ s.load.list ∨ k = slot := fun k => by
      simp [State.joined, Load.joined]
    refine ⟨?_, ?_, fun n => ?_, fun other => absurd h other, ?_, fun k hk => ?_⟩
    · rw [done, State.modifyAll_store]
      rfl
    · rw [done, if_pos h]
      rfl
    · rw [done]
      refine mem_insertAll.trans ?_
      rw [listed]
      exact ⟨fun x => x.elim (fun y => .inr ⟨h, y⟩) .inl, fun x => x.elim .inr fun y => .inl y.2⟩
    · rw [record, if_pos ((listed slot).2 (.inr rfl)), own]
      exact (if_pos h).symm
    · rw [record, others k hk]
      simp only [listed, hk, or_false, final, last, if_pos h]
  · have same : t = s.joined slot bank := if_neg h
    refine ⟨?_, ?_, fun n => ?_, fun _ => ?_, ?_, fun k hk => ?_⟩
    · rw [same]
      rfl
    · rw [same, if_neg h]
      rfl
    · rw [same]
      exact ⟨.inl, fun x => x.elim id fun y => absurd y.1 h⟩
    · rw [same]
      rfl
    · rw [same, own]
      exact (if_neg h).symm
    · rw [same, others k hk]
      simp only [final, last, if_neg h, ite_self]

/-- Settles O45. -/
theorem loadRecordTakesARecord : Obligations.LoadRecordTakesARecord := by
  intro s p tag rest x batch bank canonical clean pos hx hb valid h active owner taken low high last final accepted
  have accepts : ∀ (c : State) (slot made : Nat) (created : Bool) (retired : Nat), flagByte created = byteOf made → c.canonical → c.clean →
      c.load = s.load → c.params = s.params → c.ftu = s.ftu → (∀ k, k ≠ slot → c.record k = s.record k) →
      Bl.recordBody p (recordImage x batch bank) (s.taken p rest) = Bl.accept slot created retired (recordImage x batch bank) (c.taken p rest) →
      ∃ t, accepted t slot made retired (c.record slot) ∧ t = { c with load := t.load, store := { c.store with records := t.store.records } } ∧
        ∀ y, t.lookup y = c.lookup y := by
    intro c slot made created retired flag kept whole load params ftu others body
    rw [Bl.accept_eq (State.taken_canonical.2 kept) (State.taken_clean.2 whole) valid, State.accepted_taken, State.taken_load, State.taken_ftu, flag,
      load, ftu] at body
    obtain ⟨frame, loaded, scheduled, unscheduled, own, untouched⟩ := State.accepted_facts (slot := slot) (bank := bank) kept
    rw [load] at loaded scheduled unscheduled own untouched
    rw [params] at loaded
    generalize c.accepted slot bank = t at body frame loaded scheduled unscheduled own untouched
    refine ⟨t, ⟨?_, ?_, scheduled, unscheduled, own, fun k hk => ?_⟩, frame, fun y => ?_⟩
    · refine congrArg Host.Outcome.next (Cx.command_leaves h (by decide) (by nofun) ?_ body)
      rw [recordImage_length, decide_eq_true_eq]
      omega
    · rw [active] at loaded
      exact loaded
    · rw [untouched k hk, others k hk]
      rfl
    · rw [State.lookup, State.lookup, frame]
  refine ⟨fun e known free passes => ?_, fun slot queue retired new gives => ?_⟩
  · obtain ⟨t, accepts, frame, -⟩ := accepts s e.slot 0 false 0 rfl canonical clean rfl rfl rfl (fun _ _ => rfl) (by
      rw [Bl.recordBody_of_known (by rwa [State.taken_load]) (by rwa [State.taken_load]) valid pos hx (by rwa [State.taken_lookup]), State.taken_record,
        free, if_neg nofun]
      dsimp only
      rw [State.read_clean (State.taken_clean.2 clean), State.taken_record, free, if_neg (by simp), State.taken_zonePass, passes, if_neg (by simp)])
    exact ⟨t, accepts, frame⟩
  · obtain ⟨c, made, created⟩ := Rt.allocateCreate_creates (x := x) (batch := batch) (byLoad := true) (p := p) (rest := rest) canonical clean gives
    obtain ⟨whole, seats, ftu, pool, load, params⟩ := made.kept
    obtain ⟨t, accepts, frame, lookup⟩ := accepts c slot 1 true (retired.getD 0) rfl made.canonical (whole clean) load params ftu made.others
      (Bl.recordBody_of_created (by rwa [State.taken_load]) (by rwa [State.taken_load]) valid pos hx (by rwa [State.taken_lookup]) hb created)
    rw [made.own] at accepts
    refine ⟨t, accepts, ?_, fun y => (lookup y).trans (made.lookup y)⟩
    have index : t.index = c.index := (congrArg State.index frame).trans rfl
    show t = { s with index := t.index, freeQueue := queue, load := t.load, store := { s.store with
      records := t.store.records, nu := s.createdNu batch queue retired } }
    rw [index]
    conv_lhs => rw [frame, made.frame]

end Sys2Proof.Machine
end

section
/-! PROOF. Reports: a frame of the Tile Return Link read back as the report it carries, and what the intake does with it (R50 to R57). -/
namespace Sys2Proof.Machine

-- One declaration after another: as one text the file has more of them than it may have threads.
set_option Elab.async false

variable {s : State} {r : Report} {raw : Int} {more : List Byte} {kind : Nat}

/-! ### A frame sampled (R51) -/

theorem Line.run_frameSamples {bytes : List Byte} (h : bytes ≠ []) : (Line.between 16).run (frameSamples bytes) = ([(bytes, true)], .between 16) := by
  have last : ((bytes.map fun b => (b, 0)).getLast?.elim 0 Prod.snd) = 0 := by
    rw [List.getLast?_map]
    cases bytes.getLast? <;> rfl
  have sampled := sampledFrameRoundTrip.1 (bytes.map fun b => (b, 0)) (by simpa using h) (by simp)
  rw [last] at sampled
  simpa [frameSamples, List.flatMap_map, Function.comp_def] using sampled

/-! ### The fields of a report (R50, R188) -/

/-- The head of a report's body: its distribution port, sequence, kind and chain position. -/
def Report.head (r : Report) (kind : Nat) : List Byte := byteOf r.distPort ++ [r.sequence] ++ byteOf kind ++ byteOf r.chain

/-- The fields of its tile. -/
def Report.tile (r : Report) : List Byte := beBytes 6 r.identity ++ u16 r.batch ++ beBytes 3 r.hours

@[simp] theorem Report.head_length : (r.head kind).length = 4 := by simp [Report.head]

@[simp] theorem Report.tile_length : r.tile.length = 11 := by simp [Report.tile]

theorem Report.natAt_head (port : r.distPort ≤ 15) (chain : r.chain ≤ 95) (hk : kind < 256) :
    natAt (r.head kind ++ more) 0 1 = r.distPort ∧ BitVec.ofNat 8 (natAt (r.head kind ++ more) 1 1) = r.sequence ∧
      natAt (r.head kind ++ more) 2 1 = kind ∧ natAt (r.head kind ++ more) 3 1 = r.chain := by
  simp [Report.head, byteOf, natAt, field, beNat]
  omega

theorem Report.natAt_tile (hx : r.identity < 2 ^ 48) (hb : r.batch < 65536) (hh : r.hours < 2 ^ 24) :
    natAt (r.head kind ++ (r.tile ++ more)) 4 6 = r.identity ∧ natAt (r.head kind ++ (r.tile ++ more)) 10 2 = r.batch ∧
      natAt (r.head kind ++ (r.tile ++ more)) 12 3 = r.hours := by
  refine ⟨?_, ?_, ?_⟩ <;> rw [natAt_append_right (by simp), Report.head_length, Report.tile]
  · rw [List.append_assoc, List.append_assoc, natAt_beBytes (by simpa using hx)]
  · rw [List.append_assoc, List.append_assoc, natAt_append_right (by simp), beBytes_length, natAt_u16 hb]
  · rw [List.append_assoc, natAt_append_right (by simp), List.length_append, beBytes_length, u16_length, natAt_beBytes (by simpa using hh)]

/-- The check of a frame, read where it stands. -/
theorem natAt_check {body : List Byte} (c : Half) : BitVec.ofNat 16 (natAt (body ++ halfBytes c) ((body ++ halfBytes c).length - 2) 2) = c := by
  rw [List.length_append, halfBytes_length, Nat.add_sub_cancel, natAt_append_right (Nat.le_refl _), Nat.sub_self, halfBytes,
    natAt_beBytes_alone (by simpa using c.isLt), BitVec.ofNat_toNat, BitVec.setWidth_eq]

/-- A frame that passes the five checks of R52 carries its fields. -/
theorem reportOf_framed {body : List Byte} (length : frameLength (natAt (body ++ halfBytes (crc16 body)) 2 1) = some (body.length + 2))
    (port : (reportFields (body ++ halfBytes (crc16 body))).distPort ≤ 15) (chain : (reportFields (body ++ halfBytes (crc16 body))).chain ≤ 95)
    (named : (reportFields (body ++ halfBytes (crc16 body))).kind = .lost ∨ (reportFields (body ++ halfBytes (crc16 body))).identity ≠ 0) :
    reportOf (body ++ halfBytes (crc16 body), true) = some (reportFields (body ++ halfBytes (crc16 body))) := by
  refine if_pos ⟨rfl, by simpa using length, ?_, port, chain, named⟩
  rw [natAt_check]
  simp

/-! ### The kinds of report -/

/-- What the intake makes of a report's fields: hours and temperature clamped, the check of its frame, no gap mark (R50). -/
def Report.arriving (r : Report) (raw : Int) : Report :=
  { r with
    hours := min 262143 r.hours
    kind := match r.kind with
      | .status (some reading) => .status (some (max (-80) (min 200 reading)))
      | kind => kind
    check := crc16 (r.body raw)
    gap := false }

theorem Report.bytes_ne_nil : r.bytes raw ≠ [] := fun h => by
  simpa [Report.bytes] using congrArg List.length h

/-- The fields of a LOST, which has no tile. -/
theorem reportOf_lost (hk : r.kind = .lost) (h : r.carried = true) : reportOf (r.bytes raw, true) = some (r.arriving raw) := by
  have body : r.body raw = r.head 3 := by simp only [Report.body, hk]; rfl
  simp only [Report.carried, hk, Bool.and_eq_true, decide_eq_true_eq] at h
  obtain ⟨⟨port, chain⟩, ⟨hx, hb⟩, hh⟩ := h
  obtain ⟨fPort, fSeq, fKind, fChain⟩ := r.natAt_head (more := halfBytes (crc16 (r.head 3))) port chain (kind := 3) (by decide)
  have check := natAt_check (body := r.head 3) (crc16 (r.head 3))
  have fields : reportFields (r.head 3 ++ halfBytes (crc16 (r.head 3))) = r.arriving raw := by
    rw [reportFields]
    simp only [fPort, fSeq, fKind, fChain, check]
    simp [Report.arriving, hk, hx, hb, hh, body]
  rw [Report.bytes, body, reportOf_framed (by rw [fKind]; simp [frameLength]), fields] <;> rw [fields]
  exacts [port, chain, .inl (by simp [Report.arriving, hk])]

/-- The fields of a report with a tile, from those that lie behind it. -/
theorem Report.fields_of_tile (port : r.distPort ≤ 15) (chain : r.chain ≤ 95) (hk : kind < 3) (hx : r.identity < 2 ^ 48) (hb : r.batch < 65536)
    (hh : r.hours < 2 ^ 24) :
    reportFields (r.head kind ++ (r.tile ++ more)) =
      { r with
        kind := if kind = 1 then .announce else if kind = 2 then
          .status (if natAt more 0 1 = 0 then none else some (clampInt (-80) 200 (intAt more 1))) else .lost
        hours := min 262143 r.hours
        check := BitVec.ofNat 16 (natAt (r.head kind ++ (r.tile ++ more)) ((r.head kind ++ (r.tile ++ more)).length - 2) 2)
        gap := false } := by
  obtain ⟨fPort, fSeq, fKind, fChain⟩ := r.natAt_head (more := r.tile ++ more) port chain (kind := kind) (by omega)
  obtain ⟨fId, fBatch, fHours⟩ := r.natAt_tile (kind := kind) (more := more) hx hb hh
  have marker : natAt (r.head kind ++ (r.tile ++ more)) 15 1 = natAt more 0 1 := by
    rw [natAt_append_right (by simp), natAt_append_right (by simp)]; simp
  have reading : intAt (r.head kind ++ (r.tile ++ more)) 16 = intAt more 1 := by
    rw [intAt_append_right (by simp), intAt_append_right (by simp)]; simp
  rw [reportFields]
  simp only [fPort, fSeq, fKind, fChain, fId, fBatch, fHours, marker, reading, show ¬ kind = 3 by omega, if_false]

/-- A report with a tile is read back from its frame. -/
theorem reportOf_tile (port : r.distPort ≤ 15) (chain : r.chain ≤ 95) (hk : kind < 3) (hx : 1 ≤ r.identity ∧ r.identity < 2 ^ 48)
    (hb : r.batch < 65536) (hh : r.hours < 2 ^ 24) (length : frameLength kind = some (more.length + 17))
    (body : r.body raw = r.head kind ++ (r.tile ++ more))
    (same : (r.arriving raw).kind = if kind = 1 then .announce else if kind = 2 then
      .status (if natAt (more ++ halfBytes (crc16 (r.body raw))) 0 1 = 0 then none
        else some (clampInt (-80) 200 (intAt (more ++ halfBytes (crc16 (r.body raw))) 1))) else .lost) :
    reportOf (r.bytes raw, true) = some (r.arriving raw) := by
  have check := natAt_check (body := r.body raw) (crc16 (r.body raw))
  have framed : r.body raw ++ halfBytes (crc16 (r.body raw)) = r.head kind ++ (r.tile ++ (more ++ halfBytes (crc16 (r.body raw)))) := by
    generalize halfBytes (crc16 (r.body raw)) = check
    rw [body, List.append_assoc, List.append_assoc]
  have fields : reportFields (r.body raw ++ halfBytes (crc16 (r.body raw))) = r.arriving raw := by
    conv_lhs => rw [framed]
    rw [Report.fields_of_tile port chain hk hx.2 hb hh, ← framed, check, ← same]
    rfl
  have fKind : natAt (r.body raw ++ halfBytes (crc16 (r.body raw))) 2 1 = kind := by
    rw [framed]; exact (r.natAt_head port chain (by omega)).2.2.1
  rw [Report.bytes, reportOf_framed (by rw [fKind, length, body]; simp; omega), fields] <;> rw [fields]
  exacts [port, chain, .inr (by simp [Report.arriving]; omega)]

/-- A good report is read back from its frame. -/
theorem reportOf_bytes (h : r.carried = true) : reportOf (r.bytes raw, true) = some (r.arriving raw) := by
  cases hk : r.kind with
  | lost => exact reportOf_lost hk h
  | announce =>
    simp only [Report.carried, hk, Bool.and_eq_true, decide_eq_true_eq] at h
    obtain ⟨⟨port, chain⟩, ⟨hx, hb⟩, hh⟩ := h
    refine reportOf_tile (kind := 1) (more := []) port chain (by decide) hx hb hh rfl ?_ (by simp [Report.arriving, hk])
    simp [Report.body, hk, Report.head, Report.tile]
  | status reading =>
    simp only [Report.carried, hk, Bool.and_eq_true, decide_eq_true_eq] at h
    obtain ⟨⟨port, chain⟩, ⟨⟨hx, hb⟩, hh⟩, range⟩ := h
    cases reading with
    | none =>
      refine reportOf_tile (kind := 2) (more := byteOf 0 ++ beInt 2 raw) port chain (by decide) hx hb hh (by simp [frameLength]) ?_ ?_
      · simp [Report.body, hk, Report.head, Report.tile]
      · rw [List.append_assoc, natAt_byteOf (by decide)]
        simp [Report.arriving, hk]
    | some v =>
      refine reportOf_tile (kind := 2) (more := byteOf 1 ++ beInt 2 v) port chain (by decide) hx hb hh (by simp [frameLength]) ?_ ?_
      · simp [Report.body, hk, Report.head, Report.tile]
      · rw [List.append_assoc, natAt_byteOf (by decide), intAt_append_right (Nat.le_refl 1)]
        have : intAt (beInt 2 v ++ halfBytes (crc16 (r.body raw))) 0 = v := intAt_beInt (by simpa using range)
        simp [Report.arriving, hk, clampInt, this, byteOf]

/-- R52: a frame that fails one of the five checks carries no report. -/
theorem reportOf_malformed {frame : List Byte × Bool} (h : frame.2 = false ∨ some frame.1.length ≠ frameLength (natAt frame.1 2 1) ∨
    crc16 (frame.1.take (frame.1.length - 2)) ≠ BitVec.ofNat 16 (natAt frame.1 (frame.1.length - 2) 2) ∨
    15 < natAt frame.1 0 1 ∨ 95 < natAt frame.1 3 1 ∨ natAt frame.1 2 1 ≠ 3 ∧ natAt frame.1 4 6 = 0) : reportOf frame = none := by
  refine if_neg fun ⟨stop, length, check, port, chain, named⟩ => ?_
  have hk : natAt frame.1 2 1 ≠ 3 → natAt frame.1 4 6 ≠ 0 := fun notLost => by
    have : natAt frame.1 2 1 = 1 ∨ natAt frame.1 2 1 = 2 := by
      unfold frameLength at length
      split at length <;> simp_all
    rcases this with hk | hk <;> simp [reportFields, hk] at named <;> omega
  rcases h with h | h | h | h | h | h
  · simp [stop] at h
  · exact h length.symm
  · exact h check
  · exact absurd port (by simpa [reportFields] using h)
  · exact absurd chain (by simpa [reportFields] using h)
  · exact hk h.1 h.2

/-! ### The intake -/

theorem exec_reportArrival_framed {bytes : List Byte} (h : s.trl.line = .between 16) (frame : bytes ≠ []) :
    exec (.reportArrival (frameSamples bytes)) s = .next (Trl.arrive (bytes, true) s) := by
  have whole : ({ s with trl := { s.trl with line := .between 16 } } : State) = s := by rw [← h]
  refine congrArg Host.Outcome.next ?_
  rw [Trl.receive, h, Line.run_frameSamples frame]
  simp only [List.foldl_cons, List.foldl_nil, whole]

theorem Trl.arrive_room {frame : List Byte × Bool} (h : reportOf frame = some r) (room : s.trl.queue.length < 64) : Trl.arrive frame s = Trl.join r s := by
  rw [Trl.arrive, h]
  exact if_pos room

theorem Trl.arrive_full {frame : List Byte × Bool} (h : reportOf frame = some r) (full : 64 ≤ s.trl.queue.length) :
    Trl.arrive frame s = (s.count .reportsDropped).addBoth .reportOverflow := by
  rw [Trl.arrive, h]
  exact if_neg (by omega)

/-- The intake with a report at its tail, whose sequence is the last of its port (R53, R57). -/
def Trl.joined (r : Report) (t : Trl) : Trl :=
  { t with
    queue := t.queue ++ [{ r with gap := r.sequence != t.last r.distPort + 1 }]
    lastSeq := Table.set 255#8 r.distPort r.sequence t.lastSeq }

/-- The Notification Unit after the sequence check of a report. -/
def State.gapNu (r : Report) (s : State) : Nu :=
  if r.sequence = s.trl.last r.distPort + 1 then s.store.nu else Nu.addBoth .reportGap (Nu.count .reportGaps 1 s.store.nu)

theorem Trl.join_eq : Trl.join r s = { s with trl := Trl.joined r s.trl, store := { s.store with nu := s.gapNu r } } := by
  by_cases gap : r.sequence = s.trl.last r.distPort + 1
  · have none : (r.sequence != s.trl.last r.distPort + 1) = false := by simpa using gap
    rw [Trl.join, State.gapNu, if_pos gap]
    simp only [none, Trl.joined]
    rfl
  · have some : (r.sequence != s.trl.last r.distPort + 1) = true := by simpa using gap
    rw [Trl.join, State.gapNu, if_neg gap]
    simp only [some, Trl.joined]
    rfl

/-- Settles O24. -/
theorem reportsJoinOrAreCounted : Obligations.ReportsJoinOrAreCounted := by
  refine ⟨fun s r raw canonical idle room carried => ?_, fun s samples frame line run fails => ?_, fun s r raw idle full carried => ?_⟩
  · have arrived : exec (.reportArrival (frameSamples (r.bytes raw))) s = .next (Trl.join (r.arriving raw) s) := by
      rw [exec_reportArrival_framed idle Report.bytes_ne_nil, Trl.arrive_room (reportOf_bytes carried) room]
    refine ⟨_, arrived, ?_⟩
    obtain ⟨-, -, -, -, lastSeq, -, -, -⟩ := canonical
    rw [Trl.join_eq]
    exact ⟨rfl, Table.get_set_same lastSeq, fun q hq => Table.get_set_ne hq, rfl, rfl, rfl⟩
  · refine congrArg Host.Outcome.next ?_
    rw [Trl.receive, run]
    simp only [List.foldl_cons, List.foldl_nil, Trl.arrive, reportOf_malformed fails]
    rfl
  · rw [exec_reportArrival_framed idle Report.bytes_ne_nil, Trl.arrive_full (reportOf_bytes carried) full]
    rfl

end Sys2Proof.Machine
end

section
/-! PROOF. The detach of Port B and WALL_RESET: claims cancelled, the load abandoned, seats struck (R29, R99, R172, R178, R187). -/
namespace Sys2Proof.Machine

-- One declaration after another: as one text the file has more of them than it may have threads.
set_option Elab.async false

variable {s t : State} {p : Port} {n : Nat}

/-! ### The claims of one port cancelled (R132, R178) -/

theorem State.mem_held : n ∈ s.slotsWhere (fun r => r.hold == p.hold) ↔ (s.record n).hold = p.hold :=
  (State.mem_slotsWhere (by cases p <;> rfl)).trans beq_iff_eq

/-- The lists of a port emptied. -/
def PortState.unlisted (q : PortState) : PortState := { q with commitList := [], scheduled := [] }

/-- What the cancelling of one port's claims leaves: its records unclaimed, its lists empty, and nothing else touched. -/
structure State.Cancels (s : State) (p : Port) (t : State) : Prop where
  frame : t = ({ s with store := { s.store with records := t.store.records } } : State).onPort p PortState.unlisted
  record : ∀ n, t.record n = if (s.record n).hold = p.hold then (s.record n).unclaimed else s.record n

/-- No list and no set but the port's own names a record that the port holds (R104). -/
theorem State.Filed.unheld (f : s.Filed) :
    (∀ q, q ≠ p → (s.port q).commitList.filter (· ∉ s.slotsWhere fun r => r.hold == p.hold) = (s.port q).commitList ∧
      (s.port q).scheduled.filter (· ∉ s.slotsWhere fun r => r.hold == p.hold) = (s.port q).scheduled) ∧
    s.load.scheduled.filter (· ∉ s.slotsWhere fun r => r.hold == p.hold) = s.load.scheduled := by
  obtain ⟨-, commitLists, scheduled, -, ⟨-, loaded⟩, -⟩ := (State.filed_iff.1 f).2.2.2.2
  have stays : ∀ (h : Hold) (l : List Nat), h ≠ p.hold → (∀ n ∈ l, (s.record n).hold = h) →
      l.filter (· ∉ s.slotsWhere fun r => r.hold == p.hold) = l := fun h l ne held =>
    List.filter_eq_self.2 fun n hn => decide_eq_true fun own => ne ((held n hn).symm.trans (State.mem_held.1 own))
  have other : ∀ q, q ≠ p → q.hold ≠ p.hold := fun q hq => by
    cases p <;> cases q <;> first | exact absurd rfl hq | exact fun h => nomatch h
  exact ⟨fun q hq => ⟨stays _ _ (other q hq) fun n hn => (((commitLists q).2 n).1 hn).1,
    stays _ _ (other q hq) fun n hn => (((scheduled q).2 n).1 hn).1⟩, stays _ _ p.hold_ne_load.symm fun n hn => ((loaded n).1 hn).1⟩

theorem Cu.cancelPort_cancels (f : s.Filed) : s.Cancels p (Cu.cancelPort p s) := by
  obtain ⟨edits, index, queue, nu, damage⟩ := Cu.discardAll_kept (slots := s.slotsWhere fun r => r.hold == p.hold) (s := s)
  obtain ⟨lists, load⟩ := Cu.discardAll_lists (slots := s.slotsWhere fun r => r.hold == p.hold) (s := s)
  have record := (Cu.discardAll_records (slots := s.slotsWhere fun r => r.hold == p.hold) f.standing.canonical.1).2
  obtain ⟨ports, loaded⟩ := f.unheld (p := p)
  rw [loaded] at load
  refine ⟨?_, fun n => ?_⟩
  · have other : ∀ q, q ≠ p → ((Cu.discardAll (s.slotsWhere fun r => r.hold == p.hold) s).port q).commitList = (s.port q).commitList ∧
        ((Cu.discardAll (s.slotsWhere fun r => r.hold == p.hold) s).port q).scheduled = (s.port q).scheduled := fun q hq =>
      ⟨(lists q).1.trans (ports q hq).1, (lists q).2.trans (ports q hq).2⟩
    rw [Cu.cancelPort]
    generalize Cu.discardAll _ s = d at edits index queue nu damage load other
    cases p with
    | a =>
      obtain ⟨list, set⟩ := other .b nofun
      conv_lhs => rw [edits]
      rw [index, queue, nu, damage, load, show d.portB.commitList = s.portB.commitList from list, show d.portB.scheduled = s.portB.scheduled from set]
      rfl
    | b =>
      obtain ⟨list, set⟩ := other .a nofun
      conv_lhs => rw [edits]
      rw [index, queue, nu, damage, load, show d.portA.commitList = s.portA.commitList from list, show d.portA.scheduled = s.portA.scheduled from set]
      rfl
  · refine ((State.onPort_record ..).trans (record n)).trans ?_
    simp only [State.mem_held]

/-! ### The detach of Port B (R178) -/

theorem State.zonePass_void (h : (s.port p).zones = Zones.resetB) : s.zonePass p (some n) = false := by
  have void : Zone.void.contains n = false := by
    refine decide_eq_false ?_
    rw [show Zone.void.lower = 1 from rfl, show Zone.void.upper = 0 from rfl]
    omega
  simp [State.zonePass, h, Zones.resetB, Zones.toList, void]

theorem Nu.detached_add {e : Event} {n : Nu} : Nu.detached (n.add .b e) = Nu.detached n := by
  rw [Nu.add]
  split <;> rfl

/-- The load abandoned beside the cancelling of Port B's claims is the one that stood before it: no claim of the load is Port B's. -/
theorem State.Cancels.createdAbsent (c : s.Cancels p t) (f : s.Filed) : t.load = s.load ∧ t.createdAbsent = s.createdAbsent ∧
    ∀ n ∈ s.load.list, t.record n = s.record n := by
  have load : t.load = s.load := by
    rw [c.frame]
    exact State.onPort_load ..
  have record : ∀ n ∈ s.load.list, t.record n = s.record n := fun n hn => by
    rw [c.record, if_neg]
    rw [((f.loads n).listed).1 hn]
    exact p.hold_ne_load.symm
  refine ⟨load, ?_, record⟩
  rw [State.createdAbsent, load]
  exact List.filter_congr fun n hn => by rw [record n hn]

theorem State.abandons_of {reason : Reason} {u : State} (h : t.abandons u reason id) (load : t.load = s.load) (gone : t.createdAbsent = s.createdAbsent)
    (record : ∀ n ∈ s.load.list, t.record n = s.record n) (queue : t.freeQueue = s.freeQueue) (damage : t.store.damage = s.store.damage)
    (index : t.index = s.index) : s.abandons u reason id := by
  obtain ⟨hload, hqueue, hdamage, hlookup, hrecord⟩ := h
  have named : s.createdAbsent.map (fun n => (t.record n).identity) = s.createdAbsent.map fun n => (s.record n).identity :=
    List.map_congr_left fun n hn => by rw [record n (List.mem_of_mem_filter hn)]
  refine ⟨by rw [hload, load], by rw [hqueue, queue, gone], by rw [hdamage, damage, gone], fun x => ?_, fun n hn => ?_⟩
  · rw [hlookup, gone, named]
    simp only [State.lookup, index]
  · rw [hrecord n (load ▸ hn), gone, record n hn]

/-- Whether the detach abandons the load: it is in progress and Port B's (R172). -/
def State.detaches (s : State) : Prop := s.load.inProgress = true ∧ s.load.owner = some .b

/-- What BL's part of the detach leaves: the load abandoned where it is Port B's, and nothing else touched but Port B's events. -/
structure State.Detaches (s t : State) : Prop where
  frame : t = { s with
    store := { s.store with records := t.store.records, damage := t.store.damage, nu := t.store.nu }
    index := t.index
    freeQueue := t.freeQueue
    load := t.load }
  nu : Nu.detached t.store.nu = Nu.detached s.store.nu
  others : ∀ n, n ∉ s.load.list → t.record n = s.record n
  mine : s.detaches → s.abandons t .detached id
  stays : ¬ s.detaches → t = s

theorem Bl.detached_detaches (f : s.Filed) : s.Detaches (Bl.detached s) := by
  by_cases mine : s.detaches
  · obtain ⟨-, abandons, others, frame⟩ := Bl.abort_undoes f .detached
    have whole : Bl.detached s = (Bl.abort .detached s).2 := if_pos (by simp [mine.1, mine.2])
    rw [← whole] at abandons others frame
    have nu : (Bl.detached s).store.nu = s.store.nu.add .b .loadAborted := by
      conv_lhs => rw [frame]
      rw [mine.2]
      rfl
    refine ⟨?_, ?_, others, fun _ => abandons, fun h => absurd mine h⟩
    · conv_lhs => rw [frame]
      rw [nu, mine.2]
      rfl
    · rw [nu, Nu.detached_add]
  · have whole : Bl.detached s = s := if_neg fun h => mine (by simpa [State.detaches] using h)
    rw [whole]
    exact ⟨rfl, rfl, fun _ _ => rfl, fun h => absurd h mine, fun _ => rfl⟩

/-- Settles O7. -/
theorem detachClearsWhatPortBLeft : Obligations.DetachClearsWhatPortBLeft := by
  refine ⟨fun s canonical directory attached => ?_, fun s detached => ?_⟩
  · have f : s.Filed := State.filed_iff.2 ⟨canonical, directory⟩
    have filed : (Cu.cancelPort .b s).Filed := Cu.cancelPort_filed f
    have cancels : s.Cancels .b (Cu.cancelPort .b s) := Cu.cancelPort_cancels f
    refine ⟨Port.detachB s, congrArg Host.Outcome.next (if_pos attached), ?_⟩
    rw [Port.detachB]
    generalize Cu.cancelPort .b s = c at filed cancels
    obtain ⟨load, gone, loaded⟩ := cancels.createdAbsent f
    obtain ⟨frame, record⟩ := cancels
    have detached := Bl.detached_detaches filed
    generalize Bl.detached c = d at detached
    obtain ⟨frame', nu, others, mine, stays⟩ := detached
    have queue : c.freeQueue = s.freeQueue := by rw [frame]; rfl
    have damage : c.store.damage = s.store.damage := by rw [frame]; rfl
    have index : c.index = s.index := by rw [frame]; rfl
    have cnu : c.store.nu = s.store.nu := by rw [frame]; rfl
    have detaches : c.detaches ↔ s.load.inProgress = true ∧ s.load.owner = some .b := by rw [State.detaches, load]
    refine ⟨?_, fun n => State.zonePass_void rfl, fun n hn => ?_, fun owner running => ?_, fun other => ?_⟩
    · have events : Nu.detached d.store.nu = { s.store.nu with b := ⟨0, 0⟩, attachB := false } := nu.trans (by rw [cnu]; rfl)
      rw [← events]
      conv_lhs => rw [frame', frame]
      rfl
    · exact (others n (load ▸ hn)).trans (record n)
    · exact State.abandons_of (mine (detaches.2 ⟨running, owner⟩)) load gone loaded queue damage index
    · have same := stays fun h => by
        obtain ⟨running, owner⟩ := detaches.1 h
        rcases other with ne | idle
        · exact ne owner
        · rw [running] at idle
          cases idle
      rw [same]
      exact ⟨load, index, queue, damage, loaded⟩
  · exact congrArg Host.Outcome.next (if_neg (by simp [detached]))

end Sys2Proof.Machine
end

section
/-! PROOF. WALL_RESET (R29, R60, R72, R99, R131, R172, R187). -/
namespace Sys2Proof.Machine

-- One declaration after another: as one text the file has more of them than it may have threads.
set_option Elab.async false

variable {s : State}

/-! ### The seats struck (R29) -/

/-- A record once its seat, where it has one, has been emptied. -/
def Record.unseated (r : Record) : Record := if r.seat = none then r else r.absent

/-- What the emptying of several seats leaves: those VACANT, their occupants ABSENT, and nothing else touched. -/
structure State.EmptiesAll (s : State) (seats : List Nat) (t : State) : Prop where
  frame : t = { s with seats := t.seats, store := { s.store with records := t.store.records } }
  seat : ∀ k, t.seat k = if k ∈ seats then Seat.vacant else s.seat k
  record : ∀ n, (∃ k ∈ seats, (s.seat k).kind = .placed n) ∧ t.record n = (s.record n).absent ∨
    (∀ k ∈ seats, (s.seat k).kind ≠ .placed n) ∧ t.record n = s.record n

theorem Pu.emptyAll_empties {seats : List Nat} (clean : s.clean) (canonical : s.canonical) (nodup : seats.Nodup) :
    s.EmptiesAll seats (seats.foldl (fun acc seat => Pu.empty seat acc) s) := by
  induction seats generalizing s with
  | nil => exact ⟨rfl, fun k => by simp, fun n => .inr ⟨nofun, rfl⟩⟩
  | cons m seats ih =>
    rw [List.nodup_cons] at nodup
    obtain ⟨frame1, vacant, others, occupant, records⟩ := Pu.empty_empties (seat := m) clean canonical
    have clean1 : (Pu.empty m s).clean := by
      rw [frame1]
      exact clean
    obtain ⟨frame, seat, record⟩ := ih clean1 (Pu.empty_work.canonical canonical) nodup.2
    rw [List.foldl_cons]
    generalize Pu.empty m s = u at *
    generalize List.foldl _ u seats = t at *
    have same : ∀ k ∈ seats, u.seat k = s.seat k := fun k hk => others k fun e => nodup.1 (e ▸ hk)
    refine ⟨?_, fun k => ?_, fun n => ?_⟩
    · conv_lhs => rw [frame, frame1]
    · rw [seat]
      by_cases hk : k ∈ seats
      · simp [hk]
      · by_cases first : k = m
        · simp [first, vacant]
        · simp [hk, first, others k first]
    · by_cases first : (s.seat m).kind = .placed n
      · refine .inl ⟨⟨m, List.mem_cons_self, first⟩, ?_⟩
        rcases record n with ⟨-, h⟩ | ⟨-, h⟩ <;> rw [h, occupant n first]
        rfl
      · rcases record n with ⟨⟨k, hk, held⟩, h⟩ | ⟨none, h⟩
        · exact .inl ⟨⟨k, List.mem_cons_of_mem _ hk, by rw [← same k hk, held]⟩, by rw [h, records n first]⟩
        · refine .inr ⟨fun k hk => ?_, by rw [h, records n first]⟩
          rcases List.mem_cons.1 hk with rfl | hk
          · exact first
          · rw [← same k hk]
            exact none k hk

/-- What the strike of the seats leaves (R29). -/
structure State.StrikesSeats (s t : State) : Prop where
  frame : t = { s with seats := t.seats, store := { s.store with records := t.store.records } }
  seat : ∀ k, t.seat k = Seat.vacant
  record : ∀ n, t.record n = (s.record n).unseated

theorem Pu.strike_strikes (clean : s.clean) (f : s.Filed) : s.StrikesSeats (Pu.strike s) := by
  obtain ⟨frame, seat, record⟩ := Pu.emptyAll_empties clean f.standing.canonical (Table.keys_nodup f.standing.canonical.2.2.2.1)
  have listed : ∀ k, s.seat k ≠ Seat.vacant → k ∈ Table.keys s.seats := fun k hk => Table.mem_keys_of_get hk
  refine ⟨frame, fun k => (seat k).trans ?_, fun n => ?_⟩
  · split
    · rfl
    · exact not_not.1 fun h => ‹k ∉ _› (listed k h)
  · rw [Record.unseated]
    rcases record n with ⟨⟨k, -, held⟩, h⟩ | ⟨none, h⟩
    · rw [if_neg (by rw [(f.seated k n).1 held]; nofun)]
      exact h
    · rw [if_pos]
      · exact h
      · refine Option.eq_none_iff_forall_ne_some.2 fun k hk => ?_
        have held := (f.seated k n).2 hk
        exact none k (listed k fun e => by rw [e] at held; cases held) held

/-! ### The drift of every record set afresh (R99) -/

/-- What the strike makes of a record's drift: no temperature, targets and applied gains from its bank in use (R99). -/
def Record.restruck (cx : Ctx) (r : Record) : Record := Record.retargeted cx.limit .set (cx.bankInUse r).2 { r with theta := none }

theorem Recomputes.strike (cx : Ctx) :
    Recomputes (fun n st => Dt.recompute cx .set n (Dt.invalidate cx n st)) (fun _ => Record.restruck cx) where
  ready n st h := by
    rw [Dt.invalidate_clean h.clean, Dt.recompute_clean h.modify.clean]
    exact Dt.retarget_ready h.modify
  other n st k h hk := by
    rw [Dt.invalidate_clean h.clean, Dt.recompute_clean h.modify.clean, Dt.get_retarget_ne hk, Store.get_modify_ne hk]
  own n st h := by
    rw [Dt.invalidate_clean h.clean, Dt.recompute_clean h.modify.clean, Dt.get_retarget_same h.modify.wf, Store.get_modify_same h.wf]
    rfl
  nu n st h := by
    rw [Dt.invalidate_clean h.clean, Dt.recompute_clean h.modify.clean, Dt.retarget_nu, Store.get_modify_same h.wf]
    rfl
  frame n st h := by
    rw [Dt.invalidate_clean h.clean, Dt.recompute_clean h.modify.clean]
    conv_lhs => rw [Dt.retarget_frame]
    rfl

theorem Dt.strike_recomputed (canonical : s.canonical) (clean : s.clean) :
    s.Recomputed (fun r => if r.inUse = true then r.restruck s.ctx else r) (Dt.strike s) := by
  classical
  have ready : s.store.Ready := ⟨canonical.1, clean⟩
  obtain ⟨nu, frame⟩ := (Recomputes.strike s.ctx).eachInUse ready
  have record := (Store.get_eachInUse (Recomputes.strike s.ctx).toPointwise ready).2
  refine ⟨?_, ?_, ?_, record⟩
  · rw [Dt.strike, State.onStore, frame]
  · rw [Dt.strike, State.onStore_store, nu]
    exact Nu.gains_ite List.mem_cons_self
  · rw [State.addsCeiling, Dt.strike, State.onStore_store, nu]
    exact Nu.adds_ite

/-! ### The load struck (R172) -/

/-- A load not in progress holds nothing (R160). -/
theorem State.Filed.load_nil (f : s.Filed) (idle : s.load.inProgress = false) : s.load.list = [] := by
  obtain ⟨-, -, -, ⟨-, held⟩, -, -, -, running⟩ := (State.filed_iff.1 f).2.2.2.2
  refine List.eq_nil_iff_forall_not_mem.2 fun n hn => ?_
  rw [Load.inProgress] at idle
  rcases running n ((held n).1 hn) with ⟨state, -⟩ | ⟨state, -⟩ <;> rw [state] at idle <;> cases idle

/-- The Notification Unit once a load in progress has been abandoned (R167). -/
def State.abortNu (s : State) : Nu :=
  if s.load.inProgress then s.load.owner.elim s.store.nu fun p => s.store.nu.add p .loadAborted else s.store.nu

@[simp] theorem State.abortNu_attached {q : Port} : s.abortNu.attached q = s.store.nu.attached q := by
  unfold State.abortNu
  split
  · cases s.load.owner <;> simp
  · rfl

theorem State.abortNu_gains : s.store.nu.gains [.loadAborted] s.abortNu := by
  unfold State.abortNu
  split
  · cases s.load.owner with
    | none => exact Nu.gains_refl
    | some p => exact Nu.gains_add List.mem_cons_self
  · exact Nu.gains_refl

theorem State.abortNu_pending {q : Port} {e : Event} : (s.abortNu.sets q).pending.getLsbD e.number = true ↔
    (s.store.nu.sets q).pending.getLsbD e.number = true ∨
      s.store.nu.attached q = true ∧ e = .loadAborted ∧ s.load.inProgress = true ∧ s.load.owner = some q := by
  unfold State.abortNu
  cases s.load.inProgress with
  | false => simp
  | true =>
    cases s.load.owner with
    | none => simp
    | some p =>
      simp only [if_true, Option.elim_some, Nu.add_pending, Option.some.injEq, true_and]
      refine or_congr_right ⟨?_, ?_⟩
      · rintro ⟨attached, rfl, rfl⟩
        exact ⟨attached, rfl, rfl⟩
      · rintro ⟨attached, rfl, rfl⟩
        exact ⟨attached, rfl, rfl⟩

/-- What WALL_RESET leaves of the load: a load in progress abandoned, and nothing else touched but its owner's events. -/
structure State.StrikesLoad (s t : State) : Prop where
  frame : t = { s with
    store := { s.store with records := t.store.records, damage := t.store.damage, nu := t.store.nu }
    index := t.index
    freeQueue := s.freeQueue ++ s.createdAbsent
    load := if s.load.inProgress then s.load.abandoned .wallReset else s.load }
  damage : t.store.damage = s.store.damage.filter fun d => d.slot ∉ s.createdAbsent
  nu : t.store.nu = s.abortNu
  lookup : ∀ x, t.lookup x = if x ∈ s.createdAbsent.map (fun n => (s.record n).identity) then none else s.lookup x
  record : ∀ n, t.record n = if n ∈ s.createdAbsent then Record.blank else
    if n ∈ s.load.list then { (s.record n).unclaimed with createdByLoad := false } else s.record n

theorem Bl.strike_strikes (f : s.Filed) : s.StrikesLoad (Bl.strike s).2 ∧ (Bl.strike s).1 = (s.load.inProgress, s.createdAbsent.length) := by
  cases running : s.load.inProgress with
  | true =>
    have whole : Bl.strike s = ((true, (Bl.abort .wallReset s).1), (Bl.abort .wallReset s).2) := if_pos running
    obtain ⟨count, ⟨load, queue, damage, lookup, record⟩, others, frame⟩ := Bl.abort_undoes f .wallReset
    rw [whole, count]
    generalize (Bl.abort .wallReset s).2 = t at load queue damage lookup record others frame
    have nu : t.store.nu = s.abortNu := by
      conv_lhs => rw [frame]
      rw [State.abortNu, if_pos running]
    refine ⟨⟨?_, damage, ?_, lookup, fun n => ?_⟩, rfl⟩
    · rw [if_pos running]
      conv_lhs => rw [frame]
      rw [load, queue, frame]
    · exact nu
    · by_cases hn : n ∈ s.load.list
      · rw [record n hn, if_pos hn]
        rfl
      · rw [others n hn, if_neg hn, if_neg (c := n ∈ s.createdAbsent) fun h => hn (List.mem_of_mem_filter h)]
  | false =>
    have whole : Bl.strike s = ((false, 0), s) := if_neg (by simp [running])
    have list : s.load.list = [] := f.load_nil running
    have gone : s.createdAbsent = [] := by rw [State.createdAbsent, list]; rfl
    rw [whole, gone]
    refine ⟨⟨?_, ?_, ?_, fun x => ?_, fun n => ?_⟩, rfl⟩ <;> simp [running, gone, list, State.abortNu]

/-! ### The whole strike (R187) -/

/-- What WALL_RESET leaves before it comes to the load and to the drift: every seat VACANT, the intake empty, the snapshot withdrawn, and no
claim of a port. -/
structure State.Struck (s t : State) : Prop where
  filed : t.Filed
  frame : t = { s with
    store := { s.store with records := t.store.records }
    seats := t.seats
    trl := { s.trl with queue := [], lastSeq := [] }
    portA := s.portA.unlisted
    portB := s.portB.unlisted
    cd := { s.cd with withdrawn := true } }
  seat : ∀ k, t.seat k = Seat.vacant
  record : ∀ n, t.record n = if (s.record n).hold.isPort = true then (s.record n).unseated.unclaimed else (s.record n).unseated

/-- The state with its seats struck, its intake emptied and its snapshot withdrawn. -/
def State.darkened (s : State) : State := Cd.withdraw (Trl.clear (Pu.strike s))

theorem State.darkened_filed (f : s.Filed) : s.darkened.Filed := by
  have cleared : (Trl.clear (Pu.strike s)).Filed := (Pu.strike_filed f).of fun c => Trl.clear_work.canonical c
  exact cleared.of id

theorem Cx.cancel_struck (clean : s.clean) (f : s.Filed) : s.Struck (Cu.cancelPort .b (Cu.cancelPort .a s.darkened)) := by
  obtain ⟨frame, seat, record⟩ := Pu.strike_strikes clean f
  have filed := State.darkened_filed f
  have filedA : (Cu.cancelPort .a s.darkened).Filed := Cu.cancelPort_filed filed
  obtain ⟨frameA, recordA⟩ := Cu.cancelPort_cancels (p := .a) filed
  obtain ⟨frameB, recordB⟩ := Cu.cancelPort_cancels (p := .b) filedA
  have filedB : (Cu.cancelPort .b (Cu.cancelPort .a s.darkened)).Filed := Cu.cancelPort_filed filedA
  have dark : ∀ n, s.darkened.record n = (s.record n).unseated := record
  have darkFrame : s.darkened = { s with
      store := { s.store with records := s.darkened.store.records }
      seats := s.darkened.seats
      trl := { s.trl with queue := [], lastSeq := [] }
      cd := { s.cd with withdrawn := true } } := by
    rw [State.darkened, frame]
    rfl
  have darkSeat : ∀ k, s.darkened.seat k = Seat.vacant := seat
  clear frame seat record
  generalize Cu.cancelPort .b _ = v at *
  generalize Cu.cancelPort .a _ = u at *
  generalize s.darkened = d at *
  have whole : v = { d with store := { d.store with records := v.store.records }, portA := d.portA.unlisted, portB := d.portB.unlisted } := by
    conv_lhs => rw [frameB, frameA]
    rfl
  refine ⟨filedB, ?_, fun k => ?_, fun n => ?_⟩
  · have seats : v.seats = d.seats := by rw [whole]
    rw [seats]
    conv_lhs => rw [whole, darkFrame]
  · rw [State.seat, show v.seats = d.seats by rw [whole]]
    exact darkSeat k
  · have held : (s.record n).unseated.hold = (s.record n).hold := by
      unfold Record.unseated
      split <;> rfl
    rw [recordB, recordA, dark]
    cases hold : (s.record n).hold <;> simp [hold, held, Hold.isPort, Port.hold, Record.unclaimed]

/-- A record that has no seat and no claim, and that no load has made. -/
def Record.cleared (r : Record) : Record :=
  { r with seat := none, hold := .none, condition := .closed, pendingDamaged := false, createdByLoad := false }

theorem Record.unseated_eq (r : Record) : ∃ θ, r.unseated = { r with seat := none, theta := θ } := by
  unfold Record.unseated
  split
  · exact ⟨r.theta, by cases r; simp_all⟩
  · exact ⟨none, rfl⟩

/-- The records that WALL_RESET retires: those the load has made, all ABSENT by then (R167). -/
def State.gone (s : State) : List Nat := s.load.list.filter fun n => (s.record n).createdByLoad

theorem State.Struck.createdAbsent {t : State} (h : s.Struck t) : t.load = s.load ∧ t.createdAbsent = s.gone ∧
    ∀ n, (t.record n).identity = (s.record n).identity := by
  have load : t.load = s.load := by rw [h.frame]
  have record : ∀ n, (t.record n).createdByLoad = (s.record n).createdByLoad ∧ (t.record n).seat = none ∧
      (t.record n).identity = (s.record n).identity := fun n => by
    obtain ⟨θ, left⟩ := (s.record n).unseated_eq
    rw [h.record, left]
    split <;> exact ⟨rfl, rfl, rfl⟩
  refine ⟨load, ?_, fun n => (record n).2.2⟩
  rw [State.createdAbsent, load]
  exact List.filter_congr fun n _ => by rw [(record n).1, (record n).2.1]; simp

/-- What the strike has made of each record before it comes to the drift. -/
theorem State.Struck.record_of_strikesLoad {t u : State} (f : s.Filed) (h : s.Struck t) (load : t.StrikesLoad u) (n : Nat) :
    if n ∈ s.gone ∨ (s.record n).inUse = false then u.record n = Record.blank
    else ∃ θ, u.record n = { (s.record n).cleared with theta := θ } := by
  obtain ⟨closed, -, -, ⟨-, loaded⟩, -, undamaged, created, -⟩ := (State.filed_iff.1 f).2.2.2.2
  obtain ⟨same, gone, -⟩ := h.createdAbsent
  have own := load.record n
  rw [gone, same, h.record] at own
  obtain ⟨θ, left⟩ := (s.record n).unseated_eq
  by_cases hgone : n ∈ s.gone
  · rw [if_pos (.inl hgone), own, if_pos hgone]
  · rw [if_neg hgone] at own
    by_cases inUse : (s.record n).inUse = true
    · rw [if_neg (by simp [hgone, inUse])]
      refine ⟨θ, own.trans ?_⟩
      rw [left]
      by_cases hl : n ∈ s.load.list
      · have hold := (loaded n).1 hl
        rw [if_pos hl, hold]
        rfl
      · have unmade : (s.record n).createdByLoad = false := Bool.eq_false_iff.2 fun made => hl (created n made)
        rw [if_neg hl]
        split
        · simp [Record.unclaimed, Record.cleared, unmade]
        · rename_i notPort
          have hold : (s.record n).hold = .none := by
            cases hold : (s.record n).hold with
            | none => rfl
            | load => exact absurd ((loaded n).2 hold) hl
            | portA => rw [hold] at notPort; exact absurd rfl notPort
            | portB => rw [hold] at notPort; exact absurd rfl notPort
          simp [Record.cleared, unmade, hold, (closed n).1 hold, undamaged n hold]
    · have free := f.free (Bool.eq_false_iff.2 inUse)
      have unlisted : n ∉ s.load.list := fun hl => by
        have hold := (loaded n).1 hl
        rw [free] at hold
        cases hold
      rw [if_pos (.inr (Bool.eq_false_iff.2 inUse)), own, if_neg unlisted, free]
      rfl

/-- What a record is after WALL_RESET, where it is neither FREE nor retired (R99, R187). -/
def Record.reset (cx : Ctx) (r : Record) : Record :=
  { r with
    seat := none, theta := none, hold := .none, condition := .closed, pendingDamaged := false, createdByLoad := false,
    target := targetsOf cx.limit (cx.bankInUse r).2 none r.hours, applied := targetsOf cx.limit (cx.bankInUse r).2 none r.hours,
    ceiling := isLimited cx.limit (cx.bankInUse r).2 none r.hours }

theorem Record.restruck_cleared (cx : Ctx) (r : Record) (θ : Option Int) : { r.cleared with theta := θ }.restruck cx = r.reset cx := rfl

/-- What WALL_RESET leaves (R187). -/
structure State.StrikesWall (s t : State) : Prop where
  frame : t = { s with
    store := { s.store with records := t.store.records, nu := t.store.nu }
    index := t.index
    freeQueue := s.freeQueue ++ s.gone
    seats := t.seats
    trl := { s.trl with queue := [], lastSeq := [] }
    portA := s.portA.unlisted
    portB := s.portB.unlisted
    cd := { s.cd with withdrawn := true }
    load := if s.load.inProgress then s.load.abandoned .wallReset else s.load }
  seat : ∀ n, t.seat n = Seat.vacant
  lookup : ∀ x, t.lookup x = if x ∈ s.gone.map (fun n => (s.record n).identity) then none else s.lookup x
  gains : s.store.nu.gains [.ceiling, .loadAborted] t.store.nu
  ceiling : s.addsCeiling t
  aborted : ∀ p, s.store.nu.addsAt t.store.nu p .loadAborted (s.load.inProgress = true ∧ s.load.owner = some p)
  record : ∀ n, t.record n = if n ∈ s.gone ∨ (s.record n).inUse = false then Record.blank else (s.record n).reset s.ctx

theorem Cx.wallResetBody_strikes {p : Port} {payload : List Byte} (clean : s.clean) (f : s.Filed) : s.StrikesWall (Cx.wallResetBody p payload s).2 := by
  have struck := Cx.cancel_struck clean f
  rw [Cx.wallResetBody_state, show Cd.withdraw (Trl.clear (Pu.strike s)) = s.darkened from rfl]
  generalize Cu.cancelPort .b _ = u at struck
  have load := (Bl.strike_strikes struck.filed).1
  have filed : (Bl.strike u).2.Filed := Bl.strike_filed struck.filed
  have record := struck.record_of_strikesLoad f load
  have cleanL : (Bl.strike u).2.clean := by
    rw [State.clean, load.damage, show u.store.damage = [] by rw [struck.frame]; exact clean]
    rfl
  have whole := Dt.strike_recomputed filed.standing.canonical cleanL
  generalize (Bl.strike u).2 = v at load filed record whole
  generalize Dt.strike v = w at whole
  obtain ⟨sameLoad, gone, identity⟩ := struck.createdAbsent
  obtain ⟨frameU, seatU⟩ := And.intro struck.frame struck.seat
  obtain ⟨frameV, damageV, nuV, lookupV, -⟩ := load
  obtain ⟨frameW, gainsW, addsW, recordW⟩ := whole
  have nuU : u.store.nu = s.store.nu := by rw [frameU]
  have abortNu : u.abortNu = s.abortNu := by rw [State.abortNu, State.abortNu, sameLoad, nuU]
  rw [abortNu] at nuV
  have seats : w.seats = u.seats := by rw [frameW, frameV]
  have index : w.index = v.index := by rw [frameW]
  have ctx : v.ctx = { s.ctx with seats := v.seats, index := v.index } := by
    rw [frameV, frameU]
    rfl
  have final : ∀ n, w.record n = if n ∈ s.gone ∨ (s.record n).inUse = false then Record.blank else (s.record n).reset s.ctx := fun n => by
    have h := record n
    rw [recordW]
    by_cases blank : n ∈ s.gone ∨ (s.record n).inUse = false
    · rw [if_pos blank] at h ⊢
      rw [h]
      rfl
    · rw [if_neg blank] at h ⊢
      obtain ⟨θ, h⟩ := h
      have inUse : (s.record n).cleared.inUse = true := Bool.eq_true_of_not_eq_false fun e => blank (.inr e)
      rw [h, if_pos (by exact inUse), Record.restruck_cleared, ctx]
      rfl
  have flag : ∀ n, (w.record n).ceiling = true → (v.record n).ceiling = (s.record n).ceiling := fun n set => by
    have h := record n
    rw [final] at set
    by_cases blank : n ∈ s.gone ∨ (s.record n).inUse = false
    · rw [if_pos blank] at set
      cases set
    · rw [if_neg blank] at h
      obtain ⟨θ, h⟩ := h
      rw [h]
      rfl
  have rises : (∃ n, (v.record n).ceiling = false ∧ (w.record n).ceiling = true) ↔
      ∃ n, (s.record n).ceiling = false ∧ (w.record n).ceiling = true :=
    exists_congr fun n => and_congr_left fun set => by rw [flag n set]
  have gainsV : s.store.nu.gains [.loadAborted] v.store.nu := nuV ▸ State.abortNu_gains
  refine ⟨?_, fun n => ?_, fun x => ?_, (gainsV.mono (by simp)).trans (gainsW.mono (by simp)), fun q => ?_, fun q => ?_, final⟩
  · have mended : v.store.damage = s.store.damage := by
      rw [damageV, frameU, clean]
      rfl
    rw [seats, index]
    conv_lhs => rw [frameW, frameV, mended, gone, sameLoad, frameU]
  · rw [State.seat, seats]
    exact seatU n
  · rw [State.lookup, index]
    refine (lookupV x).trans ?_
    rw [gone, List.map_congr_left fun n _ => identity n, State.lookup, show u.index = s.index by rw [frameU]]
    rfl
  · refine (addsW q).trans ?_
    rw [nuV, State.abortNu_pending, State.abortNu_attached, rises]
    simp
  · refine Iff.trans ⟨fun h => (((gainsW.2.2 q).2 _).2 h).resolve_right (by simp), ((gainsW.2.2 q).2 _).1⟩ ?_
    rw [nuV, State.abortNu_pending]
    simp

/-- The items of WALL_RESET's answer (R187). -/
theorem Cx.wallResetBody_items {p : Port} {payload : List Byte} (clean : s.clean) (f : s.Filed) : (Cx.wallResetBody p payload s).1 =
    .ok (u16 (s.seats.filter fun e => e.2.kind != .vacant).length ++ u16 (s.slotsWhere fun r => r.hold.isPort).length ++
      flagByte s.load.inProgress ++ u16 s.gone.length ++ beBytes 4 s.ftu.frameCount.toNat) := by
  have struck := Cx.cancel_struck clean f
  have frame := congrArg (fun u : State => u.ftu.frameCount) (Cx.wallResetBody_strikes (p := p) (payload := payload) clean f).frame
  rw [Cx.wallResetBody_reply, frame, show Cd.withdraw (Trl.clear (Pu.strike s)) = s.darkened from rfl]
  generalize Cu.cancelPort .b _ = u at struck
  obtain ⟨load, gone, -⟩ := struck.createdAbsent
  rw [(Bl.strike_strikes struck.filed).2, load, gone]
  have held : (s.darkened.slotsWhere fun r => r.hold.isPort).length = (s.slotsWhere fun r => r.hold.isPort).length := by
    have dark : ∀ n, s.darkened.record n = (s.record n).unseated := (Pu.strike_strikes clean f).record
    refine List.Perm.length_eq ((List.perm_ext_iff_of_nodup ?_ ?_).2 fun n => ?_)
    · exact (Table.keys_nodup (State.darkened_filed f).standing.canonical.1).filter _
    · exact (Table.keys_nodup f.standing.canonical.1).filter _
    · rw [State.mem_slotsWhere rfl, State.mem_slotsWhere rfl, dark]
      obtain ⟨θ, left⟩ := (s.record n).unseated_eq
      rw [left]
  rw [held]

/-- Settles O14. -/
theorem wallResetStrikesTheWall : Obligations.WallResetStrikesTheWall := by
  intro s tag rest canonical directory clean h
  have f : (s.taken .a rest).Filed := State.filed_iff.2 ⟨State.taken_canonical.2 canonical, State.taken_directory directory⟩
  have items := Cx.wallResetBody_items (p := .a) (payload := []) (State.taken_clean.2 clean) f
  have strikes := Cx.wallResetBody_strikes (p := .a) (payload := []) (State.taken_clean.2 clean) f
  have body : Cx.wallResetBody .a [] (s.taken .a rest) = ((Cx.wallResetBody .a [] (s.taken .a rest)).1, (Cx.wallResetBody .a [] (s.taken .a rest)).2) := rfl
  rw [items] at body
  generalize (Cx.wallResetBody .a [] (s.taken .a rest)).2 = w at body strikes
  refine ⟨{ w with portA := { w.portA with messages := s.portA.messages }, lastTaken := s.lastTaken }, ?_, ?_, strikes.seat, fun x => ?_,
    strikes.lookup, strikes.gains, strikes.ceiling, strikes.aborted, strikes.record⟩
  · refine congrArg Host.Outcome.next (Cx.command_leaves (r := .ok _) h (by decide) (fun _ => rfl) rfl (body.trans (Prod.ext rfl ?_)))
    conv_lhs => rw [strikes.frame]
    conv_rhs => rw [strikes.frame]
    rfl
  · conv_lhs => rw [strikes.frame]
    rw [show w.trl = { s.trl with queue := [], lastSeq := [] } by rw [strikes.frame]; rfl]
    rfl
  · rw [show w.trl = { s.trl with queue := [], lastSeq := [] } by rw [strikes.frame]; rfl]
    rfl

end Sys2Proof.Machine
end

section
/-! PROOF. Offers to the drift tracker, seats taken and confirmed: STATUS of the occupant (R31, R38, R85 to R91, R101). -/
namespace Sys2Proof.Machine

-- One declaration after another: as one text the file has more of them than it may have threads.
set_option Elab.async false

variable {s : State} {slot hours : Nat} {temperature : Option Int}

theorem Nu.gains.attached {nu nu' : Nu} {kinds : List Event} (h : nu.gains kinds nu') (p : Port) : nu'.attached p = nu.attached p := by
  cases p
  · rfl
  · exact h.2.1

/-! ### An offer counted toward DRIFT_BATCH (R101) -/

theorem State.countsOffer_stays {t : State} {now : Prop} {nu : Nu} {kinds : List Event} (gains : nu.gains kinds t.store.nu)
    (same : t.driftCounter = s.driftCounter) (idle : ¬ now) : s.countsOffer t now nu kinds :=
  ⟨fun _ => ⟨same, gains⟩, fun h => absurd h idle, fun h => absurd h idle⟩

/-- The counter and the Notification Unit once an offer has been counted (R101). -/
def State.counted (s : State) : Nat × Nu :=
  if s.params.driftGap = 0 then (s.driftCounter, s.store.nu)
  else if s.driftCounter + 1 = s.params.driftGap then (0, s.store.nu.addBoth .driftBatch) else (s.driftCounter + 1, s.store.nu)

theorem Dt.countOffer_eq : Dt.countOffer s = { s with driftCounter := s.counted.1, store := { s.store with nu := s.counted.2 } } := by
  unfold Dt.countOffer State.counted
  split_ifs <;> rfl

theorem Dt.countOffer_frame : Dt.countOffer s =
    { s with driftCounter := (Dt.countOffer s).driftCounter, store := { s.store with nu := (Dt.countOffer s).store.nu } } := by
  rw [Dt.countOffer_eq]

theorem Dt.countOffer_counts {u : State} {now : Prop} {nu : Nu} {kinds : List Event} (gains : nu.gains kinds u.store.nu)
    (same : u.driftCounter = s.driftCounter) (params : u.params = s.params) (attached : ∀ p, u.store.nu.attached p = s.store.nu.attached p)
    (due : now) : s.countsOffer (Dt.countOffer u) now nu kinds := by
  rw [Dt.countOffer_eq, State.counted, params, same]
  refine ⟨fun idle => ?_, fun _ on early => ?_, fun _ on last => ?_⟩
  · rw [if_pos (idle.resolve_left (not_not.2 due))]
    exact ⟨rfl, gains⟩
  · rw [if_neg on, if_neg early]
    exact ⟨rfl, gains⟩
  · rw [if_neg on, if_pos last]
    exact ⟨rfl, fun p hp => Nu.addBoth_pending.2 (.inr ⟨(attached p).trans hp, rfl⟩),
      (gains.mono (by simp)).trans (Nu.gains_addBoth List.mem_cons_self)⟩

theorem Dt.countOffer_pending {p : Port} {e : Event} (h : e ≠ .driftBatch) : ((Dt.countOffer s).store.nu.sets p).pending.getLsbD e.number = true ↔
    (s.store.nu.sets p).pending.getLsbD e.number = true := by
  rw [Dt.countOffer_eq, State.counted]
  split_ifs
  · rfl
  · simp [Nu.addBoth_pending, h]
  · rfl

/-! ### An offer (R85, R86, R88, R91) -/

/-- Whether an offer changes the temperature or the hours (R91). -/
def Record.offerMoves (temperature : Option Int) (hours : Nat) (r : Record) : Bool :=
  decide ((r.offered temperature hours).theta ≠ r.theta ∨ r.hours < hours)

/-- What an offer makes of a record. -/
def Record.tookOffer (cx : Ctx) (temperature : Option Int) (hours : Nat) (r : Record) : Record :=
  if r.offerMoves temperature hours then Record.retargeted cx.limit .slew (cx.bankInUse r).2 (r.offered temperature hours)
  else r.offered temperature hours

/-- The Notification Unit once the hours of an offer have been checked (R88). -/
def State.hoursNu (slot hours : Nat) (s : State) : Nu :=
  if hours < (s.record slot).hours then s.store.nu.count .hoursRegressed 1 else s.store.nu

/-- What an offer leaves. -/
structure State.Offers (s : State) (slot : Nat) (temperature : Option Int) (hours : Nat) (counts : Bool) (t : State) : Prop where
  frame : t = { s with driftCounter := t.driftCounter, store := { s.store with records := t.store.records, nu := t.store.nu } }
  own : t.record slot = (s.record slot).tookOffer s.ctx temperature hours
  others : ∀ k, k ≠ slot → t.record k = s.record k
  counted : s.countsOffer t (counts = true ∧ (s.record slot).offerMoves temperature hours = true) (s.hoursNu slot hours) [.ceiling]
  ceiling : s.addsCeiling t

/-- The state with the values of an offer in the record, before its recompute. -/
def State.offeredAt (slot : Nat) (temperature : Option Int) (hours : Nat) (s : State) : State :=
  (s.modify slot fun _ => (s.record slot).offered temperature hours).onNu fun _ => s.hoursNu slot hours

theorem Dt.offer_eq {counts : Bool} (clean : s.clean) : Dt.offer slot temperature hours counts s =
    if (s.record slot).offerMoves temperature hours then
      let u := (s.offeredAt slot temperature hours).onStore fun cx st => Dt.recompute cx .slew slot st
      if counts then Dt.countOffer u else u
    else s.offeredAt slot temperature hours := by
  have checked : (if hours < (s.record slot).hours then (s.modify slot fun _ => (s.record slot).offered temperature hours).count .hoursRegressed
      else s.modify slot fun _ => (s.record slot).offered temperature hours) = s.offeredAt slot temperature hours := by
    unfold State.offeredAt State.hoursNu
    split <;> rfl
  have moves : ((s.record slot).offered temperature hours).theta ≠ (s.record slot).theta ∨
      ((s.record slot).offered temperature hours).hours ≠ (s.record slot).hours ↔ (s.record slot).offerMoves temperature hours = true := by
    rw [Record.offerMoves, decide_eq_true_eq]
    refine or_congr_right ?_
    simp [Record.offered]
  unfold Dt.offer
  simp only [State.read_clean clean, checked, moves]

theorem State.offeredAt_record {k : Nat} (wf : Table.wf Record.blank s.store.records) : (s.offeredAt slot temperature hours).record k =
    if k = slot then (s.record slot).offered temperature hours else s.record k := by
  rw [show (s.offeredAt slot temperature hours).record k =
    (s.modify slot fun _ => (s.record slot).offered temperature hours).record k from rfl, State.record_modify wf]

theorem Nu.gains_hours {p : Port} (s : State) : (s.hoursNu slot hours).attached p = s.store.nu.attached p ∧
    (s.hoursNu slot hours).sets p = s.store.nu.sets p := by
  unfold State.hoursNu
  split <;> exact ⟨by cases p <;> rfl, by cases p <;> rfl⟩

/-- A ceiling flag rises where that of the one record that changes does (R90). -/
theorem State.rises_iff {t : State} (others : ∀ k, k ≠ slot → t.record k = s.record k) :
    (∃ k, (s.record k).ceiling = false ∧ (t.record k).ceiling = true) ↔ (s.record slot).ceiling = false ∧ (t.record slot).ceiling = true := by
  refine ⟨?_, fun h => ⟨slot, h⟩⟩
  rintro ⟨k, clear, set⟩
  by_cases hk : k = slot
  · exact hk ▸ ⟨clear, set⟩
  · rw [others k hk, clear] at set
    cases set

/-- What the recompute of one record leaves (R89, R90). -/
structure State.Retargets (s : State) (slot : Nat) (t : State) : Prop where
  frame : t = { s with store := { s.store with records := t.store.records, nu := t.store.nu } }
  own : t.record slot = Record.retargeted s.params.headroomLimit .slew (s.ctx.bankInUse (s.record slot)).2 (s.record slot)
  others : ∀ k, k ≠ slot → t.record k = s.record k
  gains : s.store.nu.gains [.ceiling] t.store.nu
  ceiling : s.addsCeiling t

theorem Dt.recompute_retargets (clean : s.clean) (wf : Table.wf Record.blank s.store.records) :
    s.Retargets slot (s.onStore fun cx st => Dt.recompute cx .slew slot st) := by
  have ready : s.store.Ready := ⟨wf, clean⟩
  have whole := Recomputes.recompute s.ctx .slew fun _ => true
  have own := whole.own slot s.store ready
  have others := fun k => whole.other slot s.store k ready
  have nu := whole.nu slot s.store ready
  have frame := whole.frame slot s.store ready
  simp only [if_true] at own others nu frame
  rw [← own] at nu
  refine ⟨congrArg (fun st => { s with store := st }) frame, own, others, ?_, ?_⟩
  · rw [State.onStore_store, nu]
    exact Nu.gains_ite List.mem_cons_self
  · rw [State.addsCeiling, State.rises_iff others, State.onStore_store, nu]
    exact Nu.adds_ite

theorem Dt.offer_offers {counts : Bool} (clean : s.clean) (wf : Table.wf Record.blank s.store.records) :
    s.Offers slot temperature hours counts (Dt.offer slot temperature hours counts s) := by
  have record := fun k => State.offeredAt_record (slot := slot) (temperature := temperature) (hours := hours) (k := k) wf
  have own := record slot
  rw [if_pos rfl] at own
  have nu : (s.offeredAt slot temperature hours).store.nu = s.hoursNu slot hours := rfl
  have frame : s.offeredAt slot temperature hours = { s with
      store := { s.store with records := (s.offeredAt slot temperature hours).store.records, nu := s.hoursNu slot hours } } := rfl
  have wf' : Table.wf Record.blank (s.offeredAt slot temperature hours).store.records := State.modify_wf wf
  have flags : ∀ k, ((s.offeredAt slot temperature hours).record k).ceiling = (s.record k).ceiling := fun k => by
    rw [record]
    split
    · rename_i h
      rw [h]
      rfl
    · rfl
  rw [Dt.offer_eq clean]
  generalize s.offeredAt slot temperature hours = o at *
  have attached : ∀ p, o.store.nu.attached p = s.store.nu.attached p := fun p => nu ▸ (Nu.gains_hours s).1
  have sets : ∀ p, o.store.nu.sets p = s.store.nu.sets p := fun p => nu ▸ (Nu.gains_hours s).2
  by_cases moves : (s.record slot).offerMoves temperature hours = true
  · rw [if_pos moves]
    have cleanO : o.clean := by
      rw [frame]
      exact clean
    obtain ⟨frameV, ownV, othersV, gains, adds⟩ := Dt.recompute_retargets (slot := slot) cleanO wf'
    dsimp only
    generalize o.onStore _ = v at *
    have ownS : v.record slot = (s.record slot).tookOffer s.ctx temperature hours := by
      rw [ownV, own, Record.tookOffer, if_pos moves, frame]
      rfl
    have othersS : ∀ k, k ≠ slot → v.record k = s.record k := fun k hk => by rw [othersV k hk, record, if_neg hk]
    have frameS : v = { s with store := { s.store with records := v.store.records, nu := v.store.nu } } := by
      conv_lhs => rw [frameV, frame]
    have gainsS : (s.hoursNu slot hours).gains [.ceiling] v.store.nu := nu ▸ gains
    have addsS : s.addsCeiling v := fun p => by
      refine (adds p).trans ?_
      rw [attached, sets]
      simp only [flags]
    cases counts with
    | false =>
      refine ⟨?_, ownS, othersS, State.countsOffer_stays gainsS ?_ (by simp), addsS⟩
      · conv_lhs => rw [frameS]
        simp only [Bool.false_eq_true, if_false]
        rw [frameS]
      · rw [if_neg (by simp), frameS]
    | true =>
      rw [if_pos rfl]
      have counted := Dt.countOffer_counts (now := true = true ∧ (s.record slot).offerMoves temperature hours = true) gainsS
        (show v.driftCounter = s.driftCounter by rw [frameS]) (by rw [frameS])
        (fun p => (gains.attached p).trans (attached p)) ⟨rfl, moves⟩
      have pending := fun p => Dt.countOffer_pending (s := v) (p := p) (e := .ceiling) (by decide)
      have frameW := Dt.countOffer_frame (s := v)
      generalize Dt.countOffer v = w at *
      have records : w.store.records = v.store.records := by rw [frameW]
      have same : ∀ k, w.record k = v.record k := fun k => by rw [State.record, Store.get, records]; rfl
      refine ⟨?_, (same slot).trans ownS, fun k hk => (same k).trans (othersS k hk), counted, fun p => ?_⟩
      · rw [records]
        conv_lhs => rw [frameW, frameS]
      · refine (pending p).trans ((addsS p).trans ?_)
        simp only [same]
  · rw [if_neg moves]
    refine ⟨?_, ?_, fun k hk => ?_, ?_, fun p => ?_⟩
    · rw [frame]
    · rw [own, Record.tookOffer, if_neg moves]
    · rw [record, if_neg hk]
    · refine State.countsOffer_stays (nu ▸ Nu.gains_refl) ?_ (by simp [moves])
      rw [frame]
    · rw [Nu.addsAt, sets]
      refine ⟨.inl, fun h => h.resolve_right ?_⟩
      rintro ⟨-, k, clear, set⟩
      rw [flags, clear] at set
      cases set

/-! ### What an offer leaves, read from the state before the placement -/

/-- The fields of a record an offer has changed. -/
theorem Record.tookOffer_fields (cx : Ctx) (temperature : Option Int) (hours : Nat) (r : Record) :
    let t := r.tookOffer cx temperature hours
    let o := r.offered temperature hours
    let bank := (cx.bankInUse r).2
    t = { o with target := t.target, ceiling := t.ceiling } ∧
      (r.offerMoves temperature hours = true → t.target = targetsOf cx.limit bank o.theta o.hours ∧ t.ceiling = isLimited cx.limit bank o.theta o.hours) ∧
      (r.offerMoves temperature hours = false → t.target = r.target ∧ t.ceiling = r.ceiling) := by
  unfold Record.tookOffer
  cases r.offerMoves temperature hours with
  | true => exact ⟨rfl, fun _ => ⟨rfl, rfl⟩, nofun⟩
  | false => exact ⟨rfl, nofun, fun _ => ⟨rfl, rfl⟩⟩

theorem State.countsOffer.weaken {t u : State} {now now' : Prop} {nu nu' : Nu} {kinds kinds' : List Event} (h : u.countsOffer t now nu kinds)
    (params : u.params = s.params) (same : u.driftCounter = s.driftCounter) (attached : ∀ p, u.store.nu.attached p = s.store.nu.attached p)
    (gains : nu'.gains kinds' nu) (sub : kinds ⊆ kinds') (when_ : now' ↔ now) : s.countsOffer t now' nu' kinds' := by
  obtain ⟨idle, early, last⟩ := h
  rw [params, same] at idle early last
  rw [← when_] at idle early last
  refine ⟨fun h => ⟨(idle h).1, gains.trans ((idle h).2.mono sub)⟩, fun h on more => ⟨(early h on more).1, gains.trans ((early h on more).2.mono sub)⟩,
    fun h on more => ?_⟩
  obtain ⟨zero, adds, all⟩ := last h on more
  exact ⟨zero, fun p hp => adds p ((attached p).trans hp),
    (gains.mono (List.subset_cons_of_subset _ (List.Subset.refl _))).trans (all.mono (List.cons_subset_cons _ sub))⟩

/-- A state beside another in all that an offer reads: the parameters, the batch defaults, the drift batch counter and the events, and every
ceiling flag. -/
structure State.Beside (s u : State) : Prop where
  params : u.params = s.params
  batches : u.batches = s.batches
  counter : u.driftCounter = s.driftCounter
  nu : u.store.nu = s.store.nu
  ceiling : ∀ k, (u.record k).ceiling = (s.record k).ceiling

theorem State.Beside.bankInUse {u : State} (h : s.Beside u) (r : Record) : u.ctx.bankInUse r = s.ctx.bankInUse r := by
  simp only [Ctx.bankInUse, State.ctx, h.params, h.batches]

theorem State.Offers.addsCeiling {t u : State} {counts : Bool} (h : u.Offers slot temperature hours counts t) (beside : s.Beside u) : s.addsCeiling t := fun p => by
  refine (h.ceiling p).trans ?_
  rw [beside.nu]
  simp only [beside.ceiling]

theorem State.Offers.countsOffer {t u : State} {counts : Bool} {now : Prop} (h : u.Offers slot temperature hours counts t) (beside : s.Beside u)
    (same : (u.record slot).hours = (s.record slot).hours)
    (when_ : now ↔ counts = true ∧ (u.record slot).offerMoves temperature hours = true) :
    s.countsOffer t now (if hours < (s.record slot).hours then s.store.nu.count .hoursRegressed 1 else s.store.nu) [.ceiling] := by
  have own := h.counted
  rw [State.hoursNu, same, beside.nu] at own
  exact own.weaken beside.params beside.counter (fun p => by rw [beside.nu]) Nu.gains_refl (List.Subset.refl _) when_

/-! ### The head of the intake queue taken (R31, R59) -/

/-- The state with the head of its intake queue taken, and the consequence of the gap mark it carries. -/
def State.headed (rep : Report) (queue : List Report) (s : State) : State :=
  if rep.gap then Pu.gap rep.distPort { s with trl := { s.trl with queue := queue } } else { s with trl := { s.trl with queue := queue } }

structure State.Heads (s : State) (rep : Report) (queue : List Report) (t : State) : Prop where
  canonical : t.canonical
  frame : t = { s with trl := { s.trl with queue := queue }, seats := t.seats }
  seat : ∀ k, t.seat k = s.gapped rep k

theorem State.headed_heads {queue : List Report} {rep : Report} (canonical : s.canonical) : s.Heads rep queue (s.headed rep queue) := by
  have taken : ({ s with trl := { s.trl with queue := queue } } : State).canonical := canonical
  have seats : Table.wf Seat.vacant s.seats := canonical.2.2.2.1
  unfold State.headed
  cases gap : rep.gap with
  | true =>
    refine ⟨Pu.gap_canonical taken _, rfl, fun k => (Pu.gap_seat seats _).trans ?_⟩
    simp only [State.gapped, gap, true_and]
  | false =>
    refine ⟨taken, rfl, fun k => ?_⟩
    simp only [State.gapped, gap, Bool.false_eq_true, false_and, if_false]
    rfl

theorem State.gapped_kind {k : Nat} {rep : Report} : (s.gapped rep k).kind = (s.seat k).kind := by
  unfold State.gapped
  split <;> rfl

theorem State.Heads.beside {t : State} {queue : List Report} {rep : Report} (h : s.Heads rep queue t) : (s.clean → t.clean) ∧ s.Beside t ∧ (∀ k, t.record k = s.record k) ∧ t.ftu = s.ftu ∧
    (∀ k, (t.seat k).kind = (s.seat k).kind) ∧ t.index = s.index := by
  have kind : ∀ k, (t.seat k).kind = (s.seat k).kind := fun k => by rw [h.seat, State.gapped_kind]
  rw [h.frame] at kind ⊢
  exact ⟨id, ⟨rfl, rfl, rfl, rfl, fun _ => rfl⟩, fun _ => rfl, rfl, kind, rfl⟩

/-! ### A STATUS of the occupant (R38) -/

/-- A seat confirmed by its occupant, before the offer. -/
def State.confirmed (seat slot : Nat) (s : State) : State :=
  (s.setSeat seat ⟨.placed slot, .reported, .fresh, 0⟩).modify slot fun r => { r with lastSeen := s.ftu.frameCount }

theorem Pu.handle_own {u : State} {n : Nat} {rep : Report} (gapped : u = if rep.gap then Pu.gap rep.distPort s else s) (status : rep.kind = .status temperature)
    (occupied : (u.seat rep.seat).kind = .placed n) (own : (u.record n).identity = rep.identity) :
    Pu.handle rep s = Pu.confirm rep.seat n temperature rep.hours u := by
  unfold Pu.handle
  simp only [← gapped, status, occupied, own, if_true]

theorem Pu.confirm_eq {seat : Nat} (clean : s.clean) :
    Pu.confirm seat slot temperature hours s = Dt.offer slot temperature hours true (s.confirmed seat slot) := by
  rw [Pu.confirm, State.writeStateWord_clean (by exact clean)]
  rfl

theorem exec_status_of_occupant {n : Nat} {queue : List Report} {rep : Report} (canonical : s.canonical) (clean : s.clean) (head : s.trl.queue = rep :: queue)
    (status : rep.kind = .status temperature) (occupied : (s.seat (rep.distPort * 96 + rep.chain)).kind = .placed n)
    (own : (s.record n).identity = rep.identity) : exec .status s =
      .next (Dt.offer n temperature rep.hours true ((s.headed rep queue).confirmed (rep.distPort * 96 + rep.chain) n)) := by
  obtain ⟨cleanH, -, record, -, kind, -⟩ := (State.headed_heads (rep := rep) (queue := queue) canonical).beside
  have handled : Pu.takeHead ReportKind.isStatus s = Pu.handle rep { s with trl := { s.trl with queue := queue } } := by
    simp only [Pu.takeHead, head, status, ReportKind.isStatus, if_true]
  refine congrArg Host.Outcome.next (handled.trans ?_)
  rw [Pu.handle_own rfl status ((kind _).trans occupied) (by rw [← own]; exact congrArg Record.identity (record n))]
  exact Pu.confirm_eq (cleanH clean)

/-- What the confirmation of a seat leaves. -/
structure State.Confirms (s : State) (seat slot : Nat) (t : State) : Prop where
  clean : s.clean → t.clean
  records : Table.wf Record.blank t.store.records
  beside : s.Beside t
  frame : t = { s with seats := t.seats, store := { s.store with records := t.store.records } }
  seat : ∀ k, t.seat k = if k = seat then ⟨.placed slot, .reported, .fresh, 0⟩ else s.seat k
  own : t.record slot = { s.record slot with lastSeen := s.ftu.frameCount }
  others : ∀ k, k ≠ slot → t.record k = s.record k

theorem State.confirmed_confirms {seat : Nat} (canonical : s.canonical) : s.Confirms seat slot (s.confirmed seat slot) := by
  obtain ⟨records, -, -, seats, -⟩ := canonical
  have record : ∀ k, (s.confirmed seat slot).record k = if k = slot then { s.record k with lastSeen := s.ftu.frameCount } else s.record k :=
    fun k => State.record_modify (s := s.setSeat seat ⟨.placed slot, .reported, .fresh, 0⟩) records
  refine ⟨id, State.modify_wf records, ⟨rfl, rfl, rfl, rfl, fun k => ?_⟩, rfl, fun k => State.seat_setSeat seats, ?_, fun k hk => ?_⟩
  · rw [record]
    split <;> rfl
  · rw [record, if_pos rfl]
  · rw [record, if_neg hk]

/-- What a STATUS of the occupant leaves. -/
structure State.TakesStatus (s : State) (rep : Report) (queue : List Report) (n : Nat) (temperature : Option Int) (t : State) : Prop where
  frame : t = { s with
    trl := { s.trl with queue := queue }, seats := t.seats, driftCounter := t.driftCounter,
    store := { s.store with records := t.store.records, nu := t.store.nu } }
  seat : t.seat (rep.distPort * 96 + rep.chain) = ⟨.placed n, .reported, .fresh, 0⟩
  seats : ∀ k, k ≠ rep.distPort * 96 + rep.chain → t.seat k = s.gapped rep k
  others : ∀ k, k ≠ n → t.record k = s.record k
  own : t.record n = Record.tookOffer s.ctx temperature rep.hours { s.record n with lastSeen := s.ftu.frameCount }
  counted : ∀ now : Prop, (now ↔ (s.record n).offerMoves temperature rep.hours = true) → s.countsOffer t now
    (if rep.hours < (s.record n).hours then s.store.nu.count .hoursRegressed 1 else s.store.nu) [.ceiling]
  ceiling : s.addsCeiling t

theorem exec_status_takes {n : Nat} {queue : List Report} {rep : Report} (canonical : s.canonical) (clean : s.clean) (head : s.trl.queue = rep :: queue)
    (status : rep.kind = .status temperature) (occupied : (s.seat (rep.distPort * 96 + rep.chain)).kind = .placed n)
    (own : (s.record n).identity = rep.identity) : ∃ t, exec .status s = .next t ∧ s.TakesStatus rep queue n temperature t := by
  refine ⟨_, exec_status_of_occupant canonical clean head status occupied own, ?_⟩
  have heads := State.headed_heads (rep := rep) (queue := queue) canonical
  obtain ⟨cleanH, besideH, recordH, ftuH, -⟩ := heads.beside
  have confirms := State.confirmed_confirms (seat := rep.distPort * 96 + rep.chain) (slot := n) heads.canonical
  generalize s.headed rep queue = h at *
  generalize h.confirmed _ n = w at *
  have offers := Dt.offer_offers (slot := n) (temperature := temperature) (hours := rep.hours) (counts := true)
    (confirms.clean (cleanH clean)) confirms.records
  generalize Dt.offer n temperature rep.hours true w = t at offers
  have ownW : w.record n = { s.record n with lastSeen := s.ftu.frameCount } := by rw [confirms.own, recordH, ftuH]
  have beside : s.Beside w := ⟨confirms.beside.params.trans besideH.params, confirms.beside.batches.trans besideH.batches,
    confirms.beside.counter.trans besideH.counter, confirms.beside.nu.trans besideH.nu,
    fun k => (confirms.beside.ceiling k).trans (besideH.ceiling k)⟩
  have seats : t.seats = w.seats := by rw [offers.frame]
  have seat : ∀ k, t.seat k = if k = rep.distPort * 96 + rep.chain then ⟨.placed n, .reported, .fresh, 0⟩ else s.gapped rep k := fun k => by
    rw [State.seat, seats]
    refine (confirms.seat k).trans ?_
    rw [heads.seat]
  refine ⟨?_, by rw [seat, if_pos rfl], fun k hk => by rw [seat, if_neg hk], fun k hk => ?_, ?_, fun now when_ => ?_, offers.addsCeiling beside⟩
  · rw [seats]
    conv_lhs => rw [offers.frame, confirms.frame, heads.frame]
  · rw [offers.others k hk, confirms.others k hk, recordH]
  · rw [offers.own, ownW, Record.tookOffer, beside.bankInUse]
    rw [show w.ctx.limit = s.ctx.limit from congrArg Params.headroomLimit beside.params]
    rfl
  · refine offers.countsOffer beside (by rw [ownW]) (when_.trans ?_)
    rw [ownW]
    exact ⟨fun h => ⟨rfl, h⟩, fun h => h.2⟩

/-! ### The filter (R86) -/

/-- The filter moves by a quarter of the distance, truncated, and by at least one. -/
theorem filterTheta_bounds (θ reading : Int) : let θ' := filterTheta (some θ) reading
    (reading = θ → θ' = θ) ∧ (4 ≤ reading - θ → 4 * (θ' - θ) ≤ reading - θ ∧ reading - θ < 4 * (θ' - θ) + 4) ∧
      (4 ≤ θ - reading → 4 * (θ - θ') ≤ θ - reading ∧ θ - reading < 4 * (θ - θ') + 4) ∧
      (0 < reading - θ → reading - θ < 4 → θ' = θ + 1) ∧ (0 < θ - reading → θ - reading < 4 → θ' = θ - 1) := by
  have quarter : (reading - θ).tdiv 4 = if 0 ≤ reading - θ then (reading - θ) / 4 else -((θ - reading) / 4) := by
    split
    · exact Int.tdiv_eq_ediv_of_nonneg ‹_›
    · rw [← Int.neg_sub θ reading, Int.neg_tdiv, Int.tdiv_eq_ediv_of_nonneg (by omega)]
  simp only [filterTheta, quarter]
  split_ifs <;> omega

/-- Settles O27. -/
theorem statusConfirmsTheSeatAndFeedsTheFilter : Obligations.StatusConfirmsTheSeatAndFeedsTheFilter := by
  refine ⟨fun s r queue n reading θ canonical clean head status occupied own _ filtered => ?_,
    fun s r queue n temperature canonical clean head status occupied own _ direct => ?_⟩
  · obtain ⟨t, run, takes⟩ := exec_status_takes canonical clean head status occupied own
    obtain ⟨same, up, down, one, less⟩ := filterTheta_bounds θ reading
    obtain ⟨fields, moves, stays⟩ := Record.tookOffer_fields s.ctx (some reading) r.hours { s.record n with lastSeen := s.ftu.frameCount }
    have offers : (filterTheta (some θ) reading ≠ θ ∨ (s.record n).hours < r.hours) ↔ (s.record n).offerMoves (some reading) r.hours = true := by
      simp [Record.offerMoves, Record.offered, filtered]
    rw [← takes.own] at fields moves stays
    refine ⟨t, filterTheta (some θ) reading, run, takes.frame, takes.seat, takes.seats, takes.others, fields.trans ?_, same, up, down, one, less,
      fun h => (moves (offers.1 h)).imp (fun h => h.trans ?_) (fun h => h.trans ?_), fun h => stays ?_, takes.counted _ offers, takes.ceiling⟩
    · simp only [Record.offered, filtered, Option.elim_some]
    · exact Bool.eq_false_iff.2 fun e => h (offers.2 e)
    · simp only [Record.offered, filtered, Option.elim_some]
      rfl
    · simp only [Record.offered, filtered, Option.elim_some]
      rfl
  · obtain ⟨t, run, takes⟩ := exec_status_takes canonical clean head status occupied own
    obtain ⟨fields, moves, stays⟩ := Record.tookOffer_fields s.ctx temperature r.hours { s.record n with lastSeen := s.ftu.frameCount }
    have θ : ((s.record n).offered temperature r.hours).theta = if temperature = none then (s.record n).theta else temperature := by
      cases temperature with
      | none => rfl
      | some x => simp [Record.offered, direct.resolve_left nofun, filterTheta]
    have offers : (temperature ≠ none ∨ (s.record n).hours < r.hours) ↔ (s.record n).offerMoves temperature r.hours = true := by
      rw [Record.offerMoves, decide_eq_true_eq, θ]
      refine or_congr_left ?_
      cases temperature with
      | none => simp
      | some x => simp [direct.resolve_left nofun]
    rw [← takes.own] at fields moves stays
    refine ⟨t, run, takes.frame, takes.seat, takes.seats, takes.others, fun h => ?_, fun h => ?_, takes.counted _ offers, takes.ceiling⟩
    · obtain ⟨target, ceiling⟩ := moves (offers.1 h)
      rw [fields, target, ceiling, ← θ]
      rfl
    · obtain ⟨target, ceiling⟩ := stays (Bool.eq_false_iff.2 fun e => h (offers.2 e))
      have still : temperature = none := not_not.1 fun e => h (.inl e)
      have hours : max (s.record n).hours r.hours = (s.record n).hours := Nat.max_eq_left (Nat.le_of_not_lt fun e => h (.inr e))
      rw [fields, target, ceiling, still]
      simp only [Record.offered, Option.elim_none, hours]

end Sys2Proof.Machine
end

section
/-! PROOF. Arrivals: a tile served UNRECORDED, and a record placed at the seat that reports it (R13 to R15, R30 to R37, R85 to R91, R101). -/
namespace Sys2Proof.Machine

-- One declaration after another: as one text the file has more of them than it may have threads.
set_option Elab.async false

variable {s : State} {seat x batch : Nat} {queue : List Report} {rep : Report} {counter : Counter} {event : Event}

/-! ### The report taken (R30) -/

theorem Pu.handle_announce {u : State} (gapped : u = if rep.gap then Pu.gap rep.distPort s else s) (announce : rep.kind = .announce) :
    Pu.handle rep s = Pu.arrive rep.seat rep none false u := by
  unfold Pu.handle
  simp only [← gapped, announce]

theorem Pu.handle_other {u : State} {temperature : Option Int} (gapped : u = if rep.gap then Pu.gap rep.distPort s else s) (status : rep.kind = .status temperature)
    (other : ¬ ∃ n, (u.seat rep.seat).kind = .placed n ∧ (u.record n).identity = rep.identity) :
    Pu.handle rep s = Pu.arrive rep.seat rep temperature true u := by
  unfold Pu.handle
  simp only [← gapped, status]
  cases held : (u.seat rep.seat).kind with
  | placed n => simp only [if_neg fun own => other ⟨n, held, own⟩]
  | vacant => rfl
  | unrecorded x b => rfl

/-- An arrival is taken at the seat its report names; only a STATUS counts toward DRIFT_GAP (R30, R101). -/
theorem exec_arrives {reading : Option Int} {c : Instr} (canonical : s.canonical) (head : s.trl.queue = rep :: queue) (h : s.arrives rep c reading) :
    ∃ counts : Bool, (counts = true ↔ c = .status) ∧
      exec c s = .next (Pu.arrive (rep.distPort * 96 + rep.chain) rep reading counts (s.headed rep queue)) := by
  obtain ⟨-, -, record, -, kind, -⟩ := (State.headed_heads (rep := rep) (queue := queue) canonical).beside
  rcases h with ⟨rfl, announce, rfl⟩ | ⟨rfl, status, other⟩
  · have handled : Pu.takeHead ReportKind.isAnnounce s = Pu.handle rep { s with trl := { s.trl with queue := queue } } := by
      simp only [Pu.takeHead, head, announce, ReportKind.isAnnounce, if_true]
    exact ⟨false, by simp, congrArg Host.Outcome.next (handled.trans (Pu.handle_announce rfl announce))⟩
  · have handled : Pu.takeHead ReportKind.isStatus s = Pu.handle rep { s with trl := { s.trl with queue := queue } } := by
      simp only [Pu.takeHead, head, status, ReportKind.isStatus, if_true]
    refine ⟨true, by simp, congrArg Host.Outcome.next (handled.trans (Pu.handle_other rfl status ?_))⟩
    rintro ⟨n, held, own⟩
    refine other ⟨n, (kind _).symm.trans held, ?_⟩
    rw [← own]
    exact congrArg Record.identity (record n).symm

/-! ### A tile served UNRECORDED (R33, R36, R37) -/

/-- What a seat left UNRECORDED by an arrival leaves. -/
structure State.Unrecords (s : State) (seat x batch : Nat) (counter : Counter) (event : Event) (t : State) : Prop where
  frame : t = { s with seats := t.seats, store := { s.store with records := t.store.records, nu := t.store.nu } }
  entry : ∀ k, t.seat k = if k = seat then ⟨.unrecorded x batch, .reported, .fresh, 0⟩ else s.seat k
  record : ∀ k, t.record k = if (s.seat seat).kind = .placed k then (s.record k).absent else s.record k
  again : (∃ b, (s.seat seat).kind = .unrecorded x b) → t.store.nu = s.store.nu
  new : (∀ b, (s.seat seat).kind ≠ .unrecorded x b) → t.store.nu = Nu.addBoth event (Nu.count counter 1 s.store.nu)

/-- Whether a seat is UNRECORDED with an identity already. -/
def Seat.isUnrecorded (x : Nat) (e : Seat) : Bool :=
  match e.kind with
  | .unrecorded y _ => y == x
  | _ => false

theorem Seat.isUnrecorded_iff {e : Seat} : e.isUnrecorded x = true ↔ ∃ b, e.kind = .unrecorded x b := by
  unfold Seat.isUnrecorded
  cases e.kind <;> simp

/-- A seat served as UNRECORDED, before the count. -/
def Pu.serve (seat x batch : Nat) (s : State) : State := (Pu.displace seat none s).setSeat seat ⟨.unrecorded x batch, .reported, .fresh, 0⟩

theorem Pu.unrecorded_eq : Pu.unrecorded seat x batch counter event s =
    if (s.seat seat).isUnrecorded x then Pu.serve seat x batch s else ((Pu.serve seat x batch s).count counter).addBoth event := rfl

theorem Pu.unrecorded_unrecords (clean : s.clean) (canonical : s.canonical) :
    s.Unrecords seat x batch counter event (Pu.unrecorded seat x batch counter event s) := by
  obtain ⟨records, -, -, seats, -⟩ := canonical
  have displaced := Pu.displace_frame (seat := seat) (keep := none) clean records
  have record : ∀ k, (Pu.serve seat x batch s).record k = if (s.seat seat).kind = .placed k then (s.record k).absent else s.record k := fun k => by
    rw [Pu.serve, State.setSeat_record, Pu.displace_record clean records]
    simp only [State.displaced_eq_some, ne_eq, reduceCtorEq, not_false_eq_true, and_true]
  have entry : ∀ k, (Pu.serve seat x batch s).seat k = if k = seat then ⟨.unrecorded x batch, .reported, .fresh, 0⟩ else s.seat k := fun k => by
    rw [Pu.serve, displaced]
    exact State.seat_setSeat seats
  have frame : Pu.serve seat x batch s = { s with
      seats := (Pu.serve seat x batch s).seats, store := { s.store with records := (Pu.serve seat x batch s).store.records } } := by
    rw [Pu.serve, displaced]
    rfl
  rw [Pu.unrecorded_eq]
  generalize Pu.serve seat x batch s = d at frame record entry
  have nu : d.store.nu = s.store.nu := by rw [frame]
  cases again : (s.seat seat).isUnrecorded x with
  | true =>
    have held := Seat.isUnrecorded_iff.1 again
    refine ⟨?_, entry, record, fun _ => nu, fun h => absurd held.choose_spec (h _)⟩
    rw [if_pos rfl, nu]
    exact frame
  | false =>
    have new : ¬ ∃ b, (s.seat seat).kind = .unrecorded x b := fun h => by
      rw [Seat.isUnrecorded_iff.2 h] at again
      cases again
    rw [if_neg nofun]
    refine ⟨?_, entry, record, fun h => absurd h new, fun _ => ?_⟩
    · rw [show ((d.count counter).addBoth event).store.nu = Nu.addBoth event (Nu.count counter 1 s.store.nu) from
        congrArg (fun nu => Nu.addBoth event (Nu.count counter 1 nu)) nu]
      conv_lhs => rw [frame]
      rfl
    · exact congrArg (fun nu => Nu.addBoth event (Nu.count counter 1 nu)) nu

/-- Whether an arrival is served as UNRECORDED, with what it is counted as: in an identity clash, or where the identity gets no record. -/
def State.servesUnrecorded (s : State) (rep : Report) (seat batch : Nat) (counter : Counter) (event : Event) : Prop :=
  counter = .clashes ∧ event = .identityClash ∧ (∃ e s1, s.lookup rep.identity = some e ∧ batch = (s.record e.slot).batch ∧
      (s.record e.slot).seat = some s1 ∧ s1 ≠ seat ∧ (s.seat s1).fresh = .fresh ∧ (s.seat s1).origin = .reported) ∨
    counter = .unrecordedArrivals ∧ event = .unrecordedArrival ∧ s.lookup rep.identity = none ∧ batch = rep.batch ∧
      (s.params.autoCreate = false ∨ s.allocatesNone)

theorem Pu.arrive_unrecorded {temperature : Option Int} {counts : Bool} (h : s.servesUnrecorded rep seat batch counter event) :
    Pu.arrive seat rep temperature counts s = Pu.unrecorded seat rep.identity batch counter event s := by
  unfold Pu.arrive
  rcases h with ⟨rfl, rfl, e, s1, known, rfl, placed, elsewhere, fresh, origin⟩ | ⟨rfl, rfl, new, rfl, none_⟩
  · have wins : (s.seat s1).wins = true := by simp [Seat.wins, fresh, origin]
    simp only [known, placed, if_neg elsewhere, wins, if_true]
  · simp only [new]
    rcases none_ with off | none_
    · rw [off]
      rfl
    · simp only [Rt.allocateCreate, Rt.allocate_of_allocatesNone none_]
      split <;> rfl

theorem Pu.serve_vacant (vacant : (s.seat seat).kind = .vacant) :
    Pu.serve seat x batch s = s.setSeat seat ⟨.unrecorded x batch, .reported, .fresh, 0⟩ := by
  simp only [Pu.serve, Pu.displace, vacant]

theorem State.headed_of_noGap (noGap : rep.gap = false) : s.headed rep queue = { s with trl := { s.trl with queue := queue } } := by
  simp [State.headed, noGap]

/-- An arrival is served as UNRECORDED where the state before it says so. -/
theorem State.Heads.servesUnrecorded {t : State} (h : s.Heads rep queue t)
    (serves : counter = .clashes ∧ event = .identityClash ∧ (∃ e s1, s.lookup rep.identity = some e ∧ batch = (s.record e.slot).batch ∧
        (s.record e.slot).seat = some s1 ∧ s1 ≠ seat ∧ (s.gapped rep s1).fresh = .fresh ∧ (s.gapped rep s1).origin = .reported) ∨
      counter = .unrecordedArrivals ∧ event = .unrecordedArrival ∧ s.lookup rep.identity = none ∧ batch = rep.batch ∧
        (s.params.autoCreate = false ∨ s.allocatesNone)) : t.servesUnrecorded rep seat batch counter event := by
  obtain ⟨-, beside, record, -, -, index⟩ := h.beside
  have lookup : ∀ x, t.lookup x = s.lookup x := fun x => by rw [State.lookup, index]; rfl
  rcases serves with ⟨hc, he, e, s1, known, rfl, placed, elsewhere, fresh, origin⟩ | ⟨hc, he, new, hb, none_⟩
  · exact .inl ⟨hc, he, e, s1, (lookup _).trans known, by rw [record], by rw [record, placed], elsewhere, by rw [h.seat, fresh], by rw [h.seat, origin]⟩
  · refine .inr ⟨hc, he, (lookup _).trans new, hb, ?_⟩
    rw [beside.params]
    refine none_.imp id fun none_ => ?_
    rw [h.frame]
    exact none_

/-- Settles O26. -/
theorem identityClashKeepsTheFreshSeat : Obligations.IdentityClashKeepsTheFreshSeat := by
  refine ⟨fun s r queue e s1 canonical head announce noGap known placed elsewhere fresh origin vacant => ?_,
    fun s r queue batch counter event c reading canonical directory clean head arrives serves => ?_⟩
  · have handled : Pu.takeHead ReportKind.isAnnounce s = Pu.handle r { s with trl := { s.trl with queue := queue } } := by
      simp only [Pu.takeHead, head, announce, ReportKind.isAnnounce, if_true]
    refine congrArg Host.Outcome.next (handled.trans ((Pu.handle_announce (u := { s with trl := { s.trl with queue := queue } })
      (by simp [noGap]) announce).trans ?_))
    have serves : ({ s with trl := { s.trl with queue := queue } } : State).servesUnrecorded r r.seat (s.record e.slot).batch
        .clashes .identityClash := .inl ⟨rfl, rfl, e, s1, known, rfl, placed, elsewhere, fresh, origin⟩
    rw [Pu.arrive_unrecorded serves, Pu.unrecorded_eq, if_neg, Pu.serve_vacant (seat := r.seat) (by exact vacant)]
    · rfl
    · intro again
      obtain ⟨b, held⟩ := Seat.isUnrecorded_iff.1 again
      cases vacant.symm.trans held
  · obtain ⟨counts, -, run⟩ := exec_arrives canonical head arrives
    have heads := State.headed_heads (rep := r) (queue := queue) canonical
    obtain ⟨cleanH, besideH, recordH, -, kindH, -⟩ := heads.beside
    rw [Pu.arrive_unrecorded (heads.servesUnrecorded serves)] at run
    have unrecords := Pu.unrecorded_unrecords (seat := r.distPort * 96 + r.chain) (x := r.identity) (batch := batch) (counter := counter)
      (event := event) (cleanH clean) heads.canonical
    generalize s.headed r queue = h at *
    generalize Pu.unrecorded _ _ _ _ _ _ = t at run unrecords
    obtain ⟨frame, entry, record, again, new⟩ := unrecords
    rw [kindH] at again new
    rw [besideH.nu] at again new
    refine ⟨t, run, ?_, ?_, fun k hk => ?_, fun k => ?_, again, new⟩
    · conv_lhs => rw [frame, heads.frame]
    · rw [entry, if_pos rfl]
    · rw [entry, if_neg hk, heads.seat]
    · rw [record, kindH, recordH]
      rfl

end Sys2Proof.Machine
end

section
/-! PROOF. A record placed at the seat that reports it (R13 to R15, R30 to R37, R85 to R91, R101). -/
namespace Sys2Proof.Machine

-- One declaration after another: as one text the file has more of them than it may have threads.
set_option Elab.async false

variable {s t : State} {slot seat : Nat} {temperature : Option Int} {counts : Bool} {queue : List Report} {rep : Report} {more : List Nat} {retired : Option Nat}

/-! ### A seat taken by an arrival (R37) -/

theorem State.modify_frame {n : Nat} {f : Record → Record} : s.modify n f = { s with store := { s.store with records := (s.modify n f).store.records } } := rfl

/-- What the placement of a record at a seat leaves. -/
structure State.Seats (s : State) (seat slot : Nat) (t : State) : Prop where
  clean : t.clean
  records : Table.wf Record.blank t.store.records
  frame : t = { s with seats := t.seats, store := { s.store with records := t.store.records } }
  entry : ∀ k, t.seat k = if k = seat then ⟨.placed slot, .reported, .fresh, 0⟩ else s.seat k
  own : t.record slot = { s.record slot with seat := some seat, lastSeen := s.ftu.frameCount }
  others : ∀ k, k ≠ slot → t.record k = if (s.seat seat).kind = .placed k then (s.record k).absent else s.record k

theorem State.Seats.beside (h : s.Seats seat slot t) : s.Beside t := by
  refine ⟨by rw [h.frame], by rw [h.frame], by rw [h.frame], by rw [h.frame], fun k => ?_⟩
  by_cases hk : k = slot
  · rw [hk, h.own]
  · rw [h.others k hk]
    split <;> rfl

theorem Pu.seatArrival_seats (clean : s.clean) (canonical : s.canonical) : s.Seats seat slot (Pu.seatArrival seat slot s) := by
  obtain ⟨records, -, -, seats, -⟩ := canonical
  have frame := Pu.displace_frame (seat := seat) (keep := some slot) clean records
  have record := fun k => Pu.displace_record (seat := seat) (keep := some slot) (k := k) clean records
  have wf := Pu.displace_wf (seat := seat) (keep := some slot) clean records
  have whole : Pu.seatArrival seat slot s = ((Pu.displace seat (some slot) s).modify slot fun r =>
      { r with seat := some seat, lastSeen := (Pu.displace seat (some slot) s).ftu.frameCount }).setSeat seat ⟨.placed slot, .reported, .fresh, 0⟩ := by
    rw [Pu.seatArrival, State.writeStateWord_clean (Pu.displace_isClean clean records)]
  rw [whole]
  simp only [State.displaced_eq_some] at record
  generalize Pu.displace seat (some slot) s = d at *
  have ftu : d.ftu = s.ftu := by rw [frame]
  have own : ∀ k, (d.modify slot fun r => { r with seat := some seat, lastSeen := d.ftu.frameCount }).record k =
      if k = slot then { d.record k with seat := some seat, lastSeen := s.ftu.frameCount } else d.record k := fun k => by
    rw [State.record_modify wf, ftu]
  refine ⟨?_, State.modify_wf wf, ?_, fun k => ?_, ?_, fun k hk => ?_⟩
  · rw [State.setSeat_clean, State.modify_clean, frame]
    exact clean
  · rw [frame]
    rfl
  · have same : ∀ k, d.seat k = s.seat k := fun k => by rw [frame]; rfl
    rw [State.seat_setSeat (by rw [frame]; exact seats), State.modify_seat, same]
  · rw [State.setSeat_record, own, if_pos rfl, record, if_neg (by simp)]
  · rw [State.setSeat_record, own, if_neg hk, record]
    simp only [ne_eq, Option.some.injEq, Ne.symm hk, not_false_eq_true, and_true]

/-- What an arrival at a seat leaves, once its record stands ready to be placed: the seat taken, then the offer. -/
structure State.Places (s : State) (seat slot : Nat) (temperature : Option Int) (hours : Nat) (counts : Bool) (t : State) : Prop where
  frame : t = { s with
    seats := t.seats, driftCounter := t.driftCounter, store := { s.store with records := t.store.records, nu := t.store.nu } }
  entry : ∀ k, t.seat k = if k = seat then ⟨.placed slot, .reported, .fresh, 0⟩ else s.seat k
  own : t.record slot = Record.tookOffer s.ctx temperature hours { s.record slot with seat := some seat, lastSeen := s.ftu.frameCount }
  others : ∀ k, k ≠ slot → t.record k = if (s.seat seat).kind = .placed k then (s.record k).absent else s.record k
  counted : ∀ now : Prop, (now ↔ counts = true ∧ (s.record slot).offerMoves temperature hours = true) → s.countsOffer t now
    (if hours < (s.record slot).hours then s.store.nu.count .hoursRegressed 1 else s.store.nu) [.ceiling]
  ceiling : s.addsCeiling t

theorem Pu.arrival_places {hours : Nat} (clean : s.clean) (canonical : s.canonical) :
    s.Places seat slot temperature hours counts (Dt.offer slot temperature hours counts (Pu.seatArrival seat slot s)) := by
  have seated := Pu.seatArrival_seats (seat := seat) (slot := slot) clean canonical
  have beside := seated.beside
  generalize Pu.seatArrival seat slot s = w at *
  have offers := Dt.offer_offers (slot := slot) (temperature := temperature) (hours := hours) (counts := counts) seated.clean seated.records
  generalize Dt.offer slot temperature hours counts w = t at offers
  have seats : t.seats = w.seats := by rw [offers.frame]
  refine ⟨?_, fun k => ?_, ?_, fun k hk => ?_, fun now when_ => ?_, offers.addsCeiling beside⟩
  · rw [seats]
    conv_lhs => rw [offers.frame, seated.frame]
  · rw [State.seat, seats]
    exact seated.entry k
  · rw [offers.own, seated.own, Record.tookOffer, beside.bankInUse]
    rw [show w.ctx.limit = s.ctx.limit from congrArg Params.headroomLimit beside.params]
    rfl
  · rw [offers.others k hk, seated.others k hk]
  · refine offers.countsOffer beside (by rw [seated.own]) (when_.trans ?_)
    rw [seated.own]
    rfl

/-! ### An arrival of an identity that has a record (R32, R34, R35) -/

/-- What a record that moves leaves behind: the seat it stood at VACANT, its temperature INVALID; one that stands nowhere else leaves nothing. -/
structure State.Departs (s : State) (seat slot : Nat) (t : State) : Prop where
  clean : t.clean
  canonical : t.canonical
  frame : t = { s with seats := t.seats, store := { s.store with records := t.store.records } }
  entry : ∀ k, k ≠ seat → t.seat k = if (s.record slot).seat = some k then Seat.vacant else s.seat k
  stays : t.seat seat = s.seat seat
  own : t.record slot = { s.record slot with
    theta := if (s.record slot).seat = none ∨ (s.record slot).seat = some seat then (s.record slot).theta else none }
  others : ∀ k, k ≠ slot → t.record k = s.record k

theorem State.Departs.stands (clean : s.clean) (canonical : s.canonical) (h : (s.record slot).seat = none ∨ (s.record slot).seat = some seat) :
    s.Departs seat slot s := by
  refine ⟨clean, canonical, rfl, fun k hk => ?_, rfl, by rw [if_pos h], fun _ _ => rfl⟩
  rw [if_neg]
  intro at_
  rcases h with none_ | here
  · rw [none_] at at_
    cases at_
  · rw [here] at at_
    exact hk (Option.some.inj at_).symm

theorem Pu.leave_departs {n : Nat} (clean : s.clean) (canonical : s.canonical) (placed : (s.record slot).seat = some n) (elsewhere : n ≠ seat) :
    s.Departs seat slot (Pu.leave slot n s) := by
  obtain ⟨records, index, batches, seats, rest⟩ := id canonical
  have whole : Pu.leave slot n s = (s.setSeat n Seat.vacant).modify slot fun r => { r with theta := none } := by
    rw [Pu.leave, State.invalidate, State.onStore, Dt.invalidate_clean (by exact clean)]
    rfl
  have record : ∀ k, (Pu.leave slot n s).record k = if k = slot then { s.record k with theta := none } else s.record k := fun k => by
    rw [whole]
    exact State.record_modify (s := s.setSeat n Seat.vacant) records
  refine ⟨by rw [whole]; exact clean, ?_, by rw [whole]; rfl, fun k hk => ?_, ?_, ?_, fun k hk => by rw [record, if_neg hk]⟩
  · rw [whole]
    exact ⟨Store.modify_records_wf records, index, batches, Table.wf_set seats, rest⟩
  · rw [whole, State.modify_seat, State.seat_setSeat seats, placed]
    simp only [Option.some.injEq, eq_comm]
  · rw [whole, State.modify_seat, State.seat_setSeat seats, if_neg (Ne.symm elsewhere)]
  · rw [record, if_pos rfl, if_neg]
    rw [placed]
    simp [elsewhere]

theorem Pu.arrive_known {e : IndexEntry} (clean : s.clean) (canonical : s.canonical) (known : s.lookup rep.identity = some e)
    (free : ∀ s1, (s.record e.slot).seat = some s1 → s1 ≠ seat → (s.seat s1).fresh ≠ .fresh ∨ (s.seat s1).origin ≠ .reported) :
    ∃ v, s.Departs seat e.slot v ∧
      Pu.arrive seat rep temperature counts s = Dt.offer e.slot temperature rep.hours counts (Pu.seatArrival seat e.slot v) := by
  unfold Pu.arrive
  simp only [known]
  cases placed : (s.record e.slot).seat with
  | none => exact ⟨s, .stands clean canonical (.inl placed), rfl⟩
  | some s1 =>
    by_cases here : s1 = seat
    · subst here
      exact ⟨s, .stands clean canonical (.inr placed), by simp only [if_true]⟩
    · have loses : (s.seat s1).wins = false := by
        have := free s1 placed here
        simp only [Seat.wins, Bool.and_eq_false_iff, beq_eq_false_iff_ne]
        exact this
      refine ⟨_, Pu.leave_departs clean canonical placed here, ?_⟩
      simp only [if_neg here, loses, Bool.false_eq_true, if_false]

/-- What an arrival of an identity that has a record leaves, seen from the state before the report was taken (R31, R32, R34, R35, R37). -/
structure State.TakesArrival (s : State) (rep : Report) (queue : List Report) (slot : Nat) (temperature : Option Int) (counts : Bool) (t : State) :
    Prop where
  frame : t = { s with
    trl := { s.trl with queue := queue }, seats := t.seats, driftCounter := t.driftCounter,
    store := { s.store with records := t.store.records, nu := t.store.nu } }
  entry : t.seat (rep.distPort * 96 + rep.chain) = ⟨.placed slot, .reported, .fresh, 0⟩
  entries : ∀ k, k ≠ rep.distPort * 96 + rep.chain → t.seat k = if (s.record slot).seat = some k then Seat.vacant else s.gapped rep k
  own : ∀ old, old = { s.record slot with
      theta := if (s.record slot).seat = none ∨ (s.record slot).seat = some (rep.distPort * 96 + rep.chain) then (s.record slot).theta else none } →
    t.record slot = Record.tookOffer s.ctx temperature rep.hours { old with seat := some (rep.distPort * 96 + rep.chain), lastSeen := s.ftu.frameCount } ∧
      ∀ now : Prop, (now ↔ counts = true ∧ old.offerMoves temperature rep.hours = true) → s.countsOffer t now
        (if rep.hours < (s.record slot).hours then s.store.nu.count .hoursRegressed 1 else s.store.nu) [.ceiling]
  others : ∀ k, k ≠ slot → t.record k = if (s.seat (rep.distPort * 96 + rep.chain)).kind = .placed k then (s.record k).absent else s.record k
  ceiling : s.addsCeiling t

theorem State.Departs.takesArrival {v h : State} (heads : s.Heads rep queue h)
    (departs : h.Departs (rep.distPort * 96 + rep.chain) slot v)
    (places : v.Places (rep.distPort * 96 + rep.chain) slot temperature rep.hours counts t) :
    s.TakesArrival rep queue slot temperature counts t := by
  obtain ⟨-, besideH, recordH, ftuH, kindH, -⟩ := heads.beside
  obtain ⟨-, -, frameV, entryV, staysV, ownV, othersV⟩ := departs
  rw [recordH] at ownV
  simp only [recordH] at entryV othersV
  have ftu : v.ftu = s.ftu := by rw [← ftuH, frameV]
  have beside : s.Beside v := by
    refine ⟨by rw [← besideH.params, frameV], by rw [← besideH.batches, frameV], by rw [← besideH.counter, frameV],
      by rw [← besideH.nu, frameV], fun k => ?_⟩
    by_cases hk : k = slot
    · rw [hk, ownV]
    · rw [othersV k hk]
  refine ⟨?_, by rw [places.entry, if_pos rfl], fun k hk => by rw [places.entry, if_neg hk, entryV k hk, heads.seat], fun old before => ⟨?_,
    fun now when_ => ?_⟩, fun k hk => ?_, fun p => ?_⟩
  · conv_lhs => rw [places.frame, frameV, heads.frame]
  · rw [places.own, ownV, ← before, ftu, Record.tookOffer, beside.bankInUse]
    rw [show v.ctx.limit = s.ctx.limit from congrArg Params.headroomLimit beside.params]
    rfl
  · have hours : (v.record slot).hours = (s.record slot).hours := by rw [ownV]
    have counted := places.counted now (when_.trans (by rw [ownV, ← before]))
    rw [hours, beside.nu] at counted
    exact counted.weaken beside.params beside.counter (fun p => by rw [beside.nu]) Nu.gains_refl (List.Subset.refl _) Iff.rfl
  · rw [places.others k hk, othersV k hk, staysV, kindH]
  · refine (places.ceiling p).trans ?_
    rw [beside.nu]
    simp only [beside.ceiling]

theorem exec_arrival_takes {reading : Option Int} {c : Instr} {e : IndexEntry} (canonical : s.canonical) (clean : s.clean) (head : s.trl.queue = rep :: queue) (arrives : s.arrives rep c reading)
    (known : s.lookup rep.identity = some e)
    (free : ∀ s1, (s.record e.slot).seat = some s1 → s1 ≠ rep.distPort * 96 + rep.chain →
      (s.gapped rep s1).fresh ≠ .fresh ∨ (s.gapped rep s1).origin ≠ .reported) :
    ∃ t counts, (counts = true ↔ c = .status) ∧ exec c s = .next t ∧ s.TakesArrival rep queue e.slot reading counts t := by
  obtain ⟨counts, status, run⟩ := exec_arrives canonical head arrives
  have heads := State.headed_heads (rep := rep) (queue := queue) canonical
  obtain ⟨cleanH, -, recordH, -, -, indexH⟩ := heads.beside
  obtain ⟨v, departs, arrive⟩ := Pu.arrive_known (temperature := reading) (counts := counts) (seat := rep.distPort * 96 + rep.chain)
    (cleanH clean) heads.canonical (by rw [State.lookup, indexH]; exact known)
    (fun s1 placed elsewhere => by rw [heads.seat]; exact free s1 (by rw [← recordH]; exact placed) elsewhere)
  rw [arrive] at run
  exact ⟨_, counts, status, run, departs.takesArrival heads (Pu.arrival_places departs.clean departs.canonical)⟩

/-! ### An arrival of an identity that gets a record (R13 to R16, R36) -/

theorem State.countsOffer.gains {now : Prop} {nu : Nu} {kinds : List Event} (h : s.countsOffer t now nu kinds) :
    nu.gains (.driftBatch :: kinds) t.store.nu := by
  obtain ⟨idle, early, last⟩ := h
  by_cases stays : ¬ now ∨ s.params.driftGap = 0
  · exact (idle stays).2.mono (List.subset_cons_of_subset _ (List.Subset.refl _))
  · rw [not_or, not_not] at stays
    by_cases due : s.driftCounter + 1 = s.params.driftGap
    · exact (last stays.1 stays.2 due).2.2
    · exact (early stays.1 stays.2 due).2.mono (List.subset_cons_of_subset _ (List.Subset.refl _))

/-- The Notification Unit of a creation before the events: an auto-reclaim counted (R14). -/
def State.reclaimedNu (s : State) (retired : Option Nat) : Nu := retired.elim s.store.nu fun _ => s.store.nu.count .reclaims 1

theorem State.reclaimedNu_sets {p : Port} : (s.reclaimedNu retired).sets p = s.store.nu.sets p ∧ (s.reclaimedNu retired).attached p = s.store.nu.attached p := by
  cases retired <;> cases p <;> exact ⟨rfl, rfl⟩

/-- Whether a creation brings the pool below its threshold (R16). -/
def State.drains (s : State) (more : List Nat) : Prop :=
  s.params.poolLowThreshold ≤ s.freeQueue.length ∧ more.length < s.params.poolLowThreshold

theorem State.createdNu_events {batch : Nat} : (s.reclaimedNu retired).gains [.ceiling, .poolLow] (s.createdNu batch more retired) ∧
    (∀ p, (s.createdNu batch more retired).attached p = s.store.nu.attached p) ∧
    s.store.nu.adds (s.createdNu batch more retired) .ceiling (s.limitsNew batch = true) ∧
    s.store.nu.adds (s.createdNu batch more retired) .poolLow (s.drains more) := by
  have whole : s.createdNu batch more retired =
      if s.params.poolLowThreshold ≤ s.freeQueue.length ∧ more.length < s.params.poolLowThreshold then
        (if s.limitsNew batch then (s.reclaimedNu retired).addBoth .ceiling else s.reclaimedNu retired).addBoth .poolLow
      else if s.limitsNew batch then (s.reclaimedNu retired).addBoth .ceiling else s.reclaimedNu retired := rfl
  have base := fun p => State.reclaimedNu_sets (s := s) (retired := retired) (p := p)
  rw [whole]
  generalize s.reclaimedNu retired = nu at base
  have attached : ∀ p, (if s.limitsNew batch then nu.addBoth .ceiling else nu).attached p = s.store.nu.attached p := fun p => by
    split <;> simp [(base p).2]
  refine ⟨(Nu.gains_ite (by simp)).trans (Nu.gains_ite (by simp)), fun p => ?_, fun p => ?_, fun p => ?_⟩
  · split <;> simp [attached]
  · rw [Nu.addsAt]
    split <;> split <;> simp [Nu.addBoth_pending, *]
  · rw [Nu.addsAt]
    simp only [State.drains]
    split <;> split <;> simp [Nu.addBoth_pending, *]

theorem Pu.arrive_created {counts : Bool} (canonical : s.canonical) (new : s.lookup rep.identity = none) (on : s.params.autoCreate = true)
    (allocates : s.allocates slot more retired) : Pu.arrive seat rep temperature counts s =
      Dt.offer slot temperature rep.hours counts (Pu.seatArrival seat slot (s.creates slot rep.identity rep.batch more retired false)) := by
  unfold Pu.arrive
  simp only [new, on, if_true, Rt.allocateCreate_of_allocates canonical.1 allocates]

theorem State.Heads.createdNu {x batch : Nat} {h : State} (heads : s.Heads rep queue h) :
    h.createdNu batch more retired = s.createdNu batch more retired ∧ h.newRecord x batch false = s.newRecord x batch false ∧
      (s.allocates slot more retired → h.allocates slot more retired) := by
  rw [heads.frame]
  exact ⟨rfl, rfl, id⟩

/-- The record that an arrival creates, once it has been placed and the offer taken (R3, R36, R85). -/
theorem State.newRecord_taken {hours x batch : Nat} (cx : Ctx) (limit : cx.limit = s.params.headroomLimit) (batches : cx.batches = s.batches)
    (gain : cx.fallbackGain = s.params.fallbackGain) : let bank := (batchBank s.batches s.params.fallbackGain batch).2
    Record.tookOffer cx temperature hours { s.newRecord x batch false with seat := some seat, lastSeen := s.ftu.frameCount } = { Record.blank with
      state := .new, identity := x, batch := batch, seat := some seat, lastSeen := s.ftu.frameCount, theta := temperature,
      hours := hours, target := targetsOf s.params.headroomLimit bank temperature hours,
      applied := targetsOf s.params.headroomLimit bank none 0, ceiling := isLimited s.params.headroomLimit bank temperature hours } ∧
    ((s.newRecord x batch false).offerMoves temperature hours = true ↔ temperature ≠ none ∨ 0 < hours) := by
  obtain ⟨seats, index, cxBatches, cxLimit, cxGain, frame⟩ := cx
  obtain rfl : cxLimit = s.params.headroomLimit := limit
  obtain rfl : cxBatches = s.batches := batches
  obtain rfl : cxGain = s.params.fallbackGain := gain
  have moves : (s.newRecord x batch false).offerMoves temperature hours = true ↔ temperature ≠ none ∨ 0 < hours := by
    rw [Record.offerMoves, decide_eq_true_eq]
    refine or_congr_left ?_
    cases temperature <;> simp [Record.offered, State.newRecord, Record.created, Record.blank]
  refine ⟨?_, moves⟩
  have same : Record.offerMoves temperature hours { s.newRecord x batch false with seat := some seat, lastSeen := s.ftu.frameCount } =
      (s.newRecord x batch false).offerMoves temperature hours := rfl
  rw [Record.tookOffer, same]
  by_cases moved : (s.newRecord x batch false).offerMoves temperature hours = true
  · rw [if_pos moved]
    cases temperature <;>
      simp [Record.retargeted, Record.offered, State.newRecord, Record.created, Record.blank, Ctx.bankInUse, After.apply, filterTheta]
  · rw [if_neg moved]
    rw [moves, not_or, not_not] at moved
    obtain ⟨rfl, none_⟩ := moved
    obtain rfl : hours = 0 := by omega
    simp [Record.offered, State.newRecord, Record.created, Record.blank, State.limitsNew]

/-- What an arrival that creates its record leaves, seen from the state before the report was taken (R13, R16, R36). -/
structure State.TakesNew (s : State) (rep : Report) (queue : List Report) (slot : Nat) (more : List Nat) (retired : Option Nat)
    (temperature : Option Int) (counts : Bool) (t : State) : Prop where
  frame : t = { s with
    index := t.index, freeQueue := more, trl := { s.trl with queue := queue }, seats := t.seats, driftCounter := t.driftCounter,
    store := { s.store with records := t.store.records, nu := t.store.nu } }
  entry : ∀ k, t.seat k = if k = rep.distPort * 96 + rep.chain then ⟨.placed slot, .reported, .fresh, 0⟩ else s.gapped rep k
  own : t.record slot = { Record.blank with
    state := .new, identity := rep.identity, batch := rep.batch, seat := some (rep.distPort * 96 + rep.chain), lastSeen := s.ftu.frameCount
    theta := temperature, hours := rep.hours
    target := targetsOf s.params.headroomLimit (batchBank s.batches s.params.fallbackGain rep.batch).2 temperature rep.hours
    applied := targetsOf s.params.headroomLimit (batchBank s.batches s.params.fallbackGain rep.batch).2 none 0
    ceiling := isLimited s.params.headroomLimit (batchBank s.batches s.params.fallbackGain rep.batch).2 temperature rep.hours }
  others : ∀ k, k ≠ slot → t.record k = if (s.seat (rep.distPort * 96 + rep.chain)).kind = .placed k then (s.record k).absent else s.record k
  lookup : ∀ x, t.lookup x = if x = rep.identity then some ⟨slot, rep.batch⟩ else if some x = retired then none else s.lookup x
  counted : ∀ now : Prop, (now ↔ counts = true ∧ (temperature ≠ none ∨ 0 < rep.hours)) →
    s.countsOffer t now (s.reclaimedNu retired) [.ceiling, .poolLow]
  ceiling : s.store.nu.adds t.store.nu .ceiling (s.limitsNew rep.batch = true ∨ (t.record slot).ceiling = true)
  pool : s.store.nu.adds t.store.nu .poolLow (s.drains more)

theorem State.Creates.takesNew {v h : State} (heads : s.Heads rep queue h)
    (creates : h.Creates slot rep.identity rep.batch more retired false v)
    (places : v.Places (rep.distPort * 96 + rep.chain) slot temperature rep.hours counts t) :
    s.TakesNew rep queue slot more retired temperature counts t := by
  obtain ⟨-, besideH, recordH, ftuH, kindH, indexH⟩ := heads.beside
  obtain ⟨nuH, newH, -⟩ := heads.createdNu (x := rep.identity) (batch := rep.batch) (more := more) (retired := retired) (slot := slot)
  obtain ⟨frameV, -, ownV, othersV, lookupV⟩ := creates
  rw [nuH] at frameV
  rw [newH] at ownV
  have params : v.params = s.params := by rw [← besideH.params, frameV]
  have batches : v.batches = s.batches := by rw [← besideH.batches, frameV]
  have counter : v.driftCounter = s.driftCounter := by rw [← besideH.counter, frameV]
  have ftu : v.ftu = s.ftu := by rw [← ftuH, frameV]
  have nu : v.store.nu = s.createdNu rep.batch more retired := by rw [frameV]
  have seats : ∀ k, v.seat k = h.seat k := fun k => by rw [frameV]; rfl
  obtain ⟨gains, attached, addsCeiling, addsPool⟩ := State.createdNu_events (s := s) (batch := rep.batch) (more := more) (retired := retired)
  obtain ⟨taken, moves⟩ := State.newRecord_taken (s := s) (x := rep.identity) (batch := rep.batch) (seat := rep.distPort * 96 + rep.chain)
    (temperature := temperature) (hours := rep.hours) v.ctx (congrArg Params.headroomLimit params) batches (congrArg Params.fallbackGain params)
  have young : ¬ rep.hours < (v.record slot).hours := by
    rw [ownV]
    exact Nat.not_lt_zero _
  have others : ∀ k, k ≠ slot → t.record k =
      if (s.seat (rep.distPort * 96 + rep.chain)).kind = .placed k then (s.record k).absent else s.record k := fun k hk => by
    rw [places.others k hk, othersV k hk, seats, kindH, recordH]
  have rises : (∃ k, (v.record k).ceiling = false ∧ (t.record k).ceiling = true) ↔
      s.limitsNew rep.batch = false ∧ (t.record slot).ceiling = true := by
    have flag : (v.record slot).ceiling = s.limitsNew rep.batch := by rw [ownV]; rfl
    rw [← flag]
    refine ⟨?_, fun h => ⟨slot, h⟩⟩
    rintro ⟨k, clear, set⟩
    by_cases hk : k = slot
    · exact hk ▸ ⟨clear, set⟩
    · have same : (t.record k).ceiling = (v.record k).ceiling := by
        rw [places.others k hk]
        split <;> rfl
      rw [same, clear] at set
      cases set
  have tookNew : t.record slot = _ := places.own.trans ((by rw [ownV, ftu] : _ = Record.tookOffer v.ctx temperature rep.hours
    { s.newRecord rep.identity rep.batch false with
      seat := some (rep.distPort * 96 + rep.chain), lastSeen := s.ftu.frameCount }).trans taken)
  have counted : ∀ now : Prop, (now ↔ counts = true ∧ (temperature ≠ none ∨ 0 < rep.hours)) →
      s.countsOffer t now (s.reclaimedNu retired) [.ceiling, .poolLow] := fun now when_ => by
    have own := places.counted now (when_.trans (by rw [ownV, moves]))
    rw [if_neg young, nu] at own
    exact own.weaken params counter (fun p => by rw [nu, attached]) gains (by simp) Iff.rfl
  have offered : v.store.nu.gains [.driftBatch, .ceiling] t.store.nu := by
    have own := (places.counted _ Iff.rfl).gains
    rwa [if_neg young] at own
  refine ⟨?_, fun k => ?_, tookNew, others, fun x => ?_, counted, fun p => ?_, fun p => ?_⟩
  · have index : t.index = v.index := by rw [places.frame]
    rw [index]
    conv_lhs => rw [places.frame, frameV, heads.frame]
  · rw [places.entry, seats, heads.seat]
  · rw [State.lookup, show t.index = v.index by rw [places.frame]]
    refine (lookupV x).trans ?_
    rw [State.lookup, indexH]
    rfl
  · refine (places.ceiling p).trans ?_
    have made := addsCeiling p
    rw [Nu.addsAt] at made
    rw [rises, nu, attached, made]
    cases s.limitsNew rep.batch <;> simp
  · refine Iff.trans ⟨fun h => (((offered.2.2 p).2 _).2 h).resolve_right (by simp), ((offered.2.2 p).2 _).1⟩ ?_
    rw [nu]
    exact addsPool p

theorem exec_arrival_creates {reading : Option Int} {c : Instr} (canonical : s.canonical) (clean : s.clean) (head : s.trl.queue = rep :: queue) (arrives : s.arrives rep c reading)
    (new : s.lookup rep.identity = none) (on : s.params.autoCreate = true) (allocates : s.allocates slot more retired) :
    ∃ t counts, (counts = true ↔ c = .status) ∧ exec c s = .next t ∧ s.TakesNew rep queue slot more retired reading counts t := by
  obtain ⟨counts, status, run⟩ := exec_arrives canonical head arrives
  have heads := State.headed_heads (rep := rep) (queue := queue) canonical
  obtain ⟨cleanH, besideH, -, -, -, indexH⟩ := heads.beside
  have allocatesH := (heads.createdNu (x := 0) (batch := 0)).2.2 allocates
  rw [Pu.arrive_created heads.canonical (by rw [State.lookup, indexH]; exact new) (by rw [besideH.params, on]) allocatesH] at run
  have creates := State.creates_creates (x := rep.identity) (batch := rep.batch) (byLoad := false) heads.canonical (cleanH clean) allocatesH
  generalize (s.headed rep queue).creates slot rep.identity rep.batch more retired false = v at run creates
  exact ⟨_, counts, status, run, creates.takesNew heads (Pu.arrival_places (creates.kept.1 (cleanH clean)) creates.canonical)⟩

/-- Settles O25. -/
theorem announcePlacesAnAbsentRecord : Obligations.AnnouncePlacesAnAbsentRecord := by
  refine ⟨fun s r queue e canonical clean head announce noGap known _ absent vacant => ?_, ?_⟩
  · obtain ⟨t, counts, status, run, takes⟩ := exec_arrival_takes canonical clean head (.inl ⟨rfl, announce, rfl⟩) known
      fun s1 placed => by rw [absent] at placed; cases placed
    obtain ⟨own, counted⟩ := takes.own (s.record e.slot) (by rw [if_pos (.inl absent)])
    have idle : s.countsOffer t False (if r.hours < (s.record e.slot).hours then s.store.nu.count .hoursRegressed 1 else s.store.nu) [.ceiling] :=
      counted False (by simp [Bool.eq_false_iff.2 fun h => nomatch status.1 h])
    obtain ⟨same, gains⟩ := idle.1 (.inl id)
    have stands : ∀ k, s.gapped r k = s.seat k := fun k => by simp [State.gapped, noGap]
    have moves : (s.record e.slot).offerMoves none r.hours = decide ((s.record e.slot).hours < r.hours) := by
      simp [Record.offerMoves, Record.offered]
    refine ⟨t, run, ?_, takes.entry, fun k hk => by rw [takes.entries k hk, absent, stands]; rfl, ?_, fun k hk => ?_, gains, takes.ceiling⟩
    · rw [← same]
      exact takes.frame
    · obtain ⟨fields, moved, stays⟩ := Record.tookOffer_fields s.ctx none r.hours
        { s.record e.slot with seat := some (r.distPort * 96 + r.chain), lastSeen := s.ftu.frameCount }
      rw [← own] at fields moved stays
      by_cases rise : (s.record e.slot).hours < r.hours
      · obtain ⟨target, ceiling⟩ := moved (moves.trans (decide_eq_true rise))
        rw [fields, target, ceiling, if_pos rise, if_pos rise]
        simp only [Record.offered, Nat.max_eq_right (Nat.le_of_lt rise)]
        rfl
      · obtain ⟨target, ceiling⟩ := stays (moves.trans (decide_eq_false rise))
        rw [fields, target, ceiling, if_neg rise, if_neg rise]
        rfl
    · rw [takes.others k hk, vacant]
      rfl
  · intro displaced
    refine ⟨fun s r queue e c reading canonical directory clean head arrives known free => ?_,
      fun s r queue slot more retired c reading canonical directory clean head arrives new on allocates => ?_⟩
    · obtain ⟨t, counts, status, run, takes⟩ := exec_arrival_takes canonical clean head arrives known free
      obtain ⟨own, counted⟩ := takes.own _ rfl
      intro bank before θ moved nu
      have offers : moved ↔ Record.offerMoves reading r.hours { s.record e.slot with theta := before } = true := by
        rw [Record.offerMoves, decide_eq_true_eq]
        rfl
      obtain ⟨fields, moves, stays⟩ := Record.tookOffer_fields s.ctx reading r.hours
        { s.record e.slot with theta := before, seat := some (r.distPort * 96 + r.chain), lastSeen := s.ftu.frameCount }
      rw [← own] at fields moves stays
      refine ⟨t, run, takes.frame, takes.entry, takes.entries, fields, fun h => moves (offers.1 h),
        fun h => stays (Bool.eq_false_iff.2 fun e => h (offers.2 e)), takes.others, counted _ ?_, takes.ceiling⟩
      rw [status]
      exact and_congr_right fun _ => offers
    · obtain ⟨t, counts, status, run, takes⟩ := exec_arrival_creates canonical clean head arrives new on allocates
      refine ⟨t, run, takes.frame, by rw [takes.entry, if_pos rfl], fun k hk => by rw [takes.entry, if_neg hk], takes.own, takes.others,
        takes.lookup, takes.counted _ ?_, takes.ceiling, takes.pool⟩
      rw [status]

end Sys2Proof.Machine
end

section
/-! PROOF. FIND_RECORD, READ_RECORD and READ_DRIFT, and what READ_RECORD finds where one word is damaged (R20, R21, R98, R102, R148 to R154). -/
namespace Sys2Proof.Machine

-- One declaration after another: as one text the file has more of them than it may have threads.
set_option Elab.async false

variable {s : State} {n : Nat} {st : Store} {cx : Ctx} {bits : List Nat}

/-! ### Reads in a store without errors (R20, R21, R102) -/

theorem withSlot_of_inUse {body : Nat → State → Reply × State} (hn : n ≤ 2047) (inUse : (s.record n).inUse = true) :
    withSlot (u16 n) body s = body n s := by
  simp only [withSlot, natAt_u16_alone (show n < 65536 by omega), if_neg (Nat.not_lt.2 hn), inUse]
  rfl

theorem exec_findRecord : exec .findRecord s = .next (Cx.command 0x11 false (· == 6) Rt.findBody s) := rfl

theorem Rt.findBody_known {p : Port} {x : Nat} {e : IndexEntry} (clean : s.clean) (pos : 0 < x) (hx : x < 2 ^ 48) (known : s.lookup x = some e) :
    Rt.findBody p (beBytes 6 x) s = (.ok (u16 e.slot ++ byteOf (s.record e.slot).state.code ++ optU16 (s.record e.slot).seat ++
      halfBytes (s.record e.slot).generation), s) := by
  simp only [Rt.findBody, natAt_beBytes_alone (show x < 256 ^ 6 by omega), if_neg (Nat.ne_of_gt pos), known, State.read_clean clean]

/-- The items of READ_RECORD's answer before the image of the active bank (R21). -/
def Rt.items (n : Nat) (r : Record) (free : Nat) : List Byte :=
  u16 n ++ byteOf r.state.code ++ beBytes 6 r.identity ++ u16 r.batch ++ optU16 r.seat ++ beBytes 4 r.lastSeen.toNat ++
    byteOf r.active.index ++ halfBytes r.generation ++ halfBytes r.bankCheck ++
    byteOf r.hold.code ++ byteOf r.condition.code ++ flagByte r.pendingDamaged ++ flagByte r.createdByLoad ++
    thetaBytes r.theta ++ beBytes 3 r.hours ++ u16 r.target.r ++ u16 r.target.g ++ u16 r.target.b ++
    u16 r.applied.r ++ u16 r.applied.g ++ u16 r.applied.b ++ flagByte r.ceiling ++ flagByte r.regressed ++ u16 free

theorem Prim.flatMap_u16 (q : Prim Nat) : q.toList.flatMap u16 = u16 q.r ++ (u16 q.g ++ u16 q.b) := by
  rw [Prim.toList, List.flatMap_cons, List.flatMap_cons, List.flatMap_singleton]

theorem Rt.recordItems_eq {r : Record} {bank : Bank} {free : Nat} : Rt.recordItems n r bank free = Rt.items n r free ++ bankImage bank := by
  delta Rt.recordItems Rt.items
  rw [Prim.flatMap_u16, Prim.flatMap_u16]
  generalize bankImage bank = image
  simp only [List.append_assoc]

/-- What READ_RECORD answers, once its read leaves `t`. -/
theorem exec_readRecord_of_read {t : State} {p : Port} {tag : Byte} {rest : List Message} (hn : n ≤ 2047) (inUse : (s.record n).inUse = true) (h : s.takes p 0x12 tag (u16 n) rest)
    (read : (s.taken p rest).read .rt n (isReadRecordWord (s.record n).active) = t.taken p rest) :
    exec .readRecord s = .next (t.answered p rest tag .ok (Rt.items n (t.record n) t.freeQueue.length ++
      bankImage (t.store.bankRead n (t.record n).active (t.record n).activeBank))) := by
  refine congrArg Host.Outcome.next (Cx.command_leaves (r := .ok _) h (by decide) (by nofun) rfl ?_)
  rw [Rt.readBody, withSlot_of_inUse hn (by rwa [State.taken_record])]
  simp only [State.taken_record, read, State.taken_store, Rt.recordItems_eq]
  cases p <;> rfl

theorem driftItems_eq (step target applied : Nat) : driftItems step target applied =
    u16 target ++ u16 applied ++ u16 ((max target applied - min target applied + step - 1) / step) := by
  rw [driftItems, boundariesToTarget, show applied - target + (target - applied) = max target applied - min target applied by omega]

theorem Dt.readBody_clean {p : Port} (clean : s.clean) (hn : n ≤ 2047) (inUse : (s.record n).inUse = true) :
    let r := s.record n
    let bank := (s.ctx.bankInUse r).2
    let items := fun (target applied : Nat) =>
      u16 target ++ u16 applied ++ u16 ((max target applied - min target applied + s.params.slewStep - 1) / s.params.slewStep)
    Dt.readBody p (u16 n) s = (.ok (byteOf r.state.code ++ optU16 r.seat ++ (s.ctx.bankInUse r).1.bytes ++
      beInt 2 bank.thetaRef ++ thetaBytes r.theta ++ beInt 2 (r.theta.elim 0 fun θ => max (-160) (min 160 (θ - bank.thetaRef))) ++
      beBytes 3 r.hours ++ flagByte r.ceiling ++ flagByte r.regressed ++ items r.target.r r.applied.r ++ items r.target.g r.applied.g ++
      items r.target.b r.applied.b ++ beBytes 4 s.params.headroomLimit ++ beBytes 4 s.params.slewStep ++ byteOf s.driftCounter), s) := by
  rw [Dt.readBody, withSlot_of_inUse hn inUse]
  simp only [State.read_clean clean, driftItems_eq]
  rfl

/-! ### A record condemned (R151) -/

/-- The store with a record SUSPECT, its last seen and the store's damage given, and RECORD_SUSPECT added. -/
def Store.suspected (n : Nat) (lastSeen : FrameCount) (damage : List Damage) (st : Store) : Store :=
  ({ st.modify n fun r => { r with state := .suspect, lastSeen := lastSeen } with damage := damage }).addBoth .recordSuspect

/-- The store with a record condemned: SUSPECT, and recomputed from its batch default or the unity bank where it was LIVE (R151). -/
def Store.condemned (cx : Ctx) (n : Nat) (lastSeen : FrameCount) (damage : List Damage) (st : Store) : Store :=
  if (st.get n).state = .live then Dt.retarget cx .slew n (cx.fallbackBank (st.get n)) (st.suspected n lastSeen damage)
  else st.suspected n lastSeen damage

theorem Store.found_eq_nil {sel : ArrayWord → Bool} {w : ArrayWord} (h : st.damage = [⟨n, w, bits⟩] ∨ st.damage = []) (miss : sel w = false) : st.found n sel = [] := by
  rcases h with h | h <;> simp [Store.found, h, miss]

theorem Store.correct_of_found {sel : ArrayWord → Bool} (h : st.found n sel = []) : st.correct n sel = st ∧ st.doubles n sel = [] := by
  simp [Store.correct, Store.doubles, h]

theorem Dt.recomputeFallback_of_found {after : After} (h : st.found n isDriftWord = []) :
    Dt.recomputeFallback cx after n st = Dt.retarget cx after n (cx.fallbackBank (st.get n)) st := by
  obtain ⟨same, none_⟩ := Store.correct_of_found h
  simp only [Dt.recomputeFallback, same, none_, List.length_nil, if_true]

theorem Rt.writeSuspect_of_found (h : st.found n isStateWord = []) :
    Rt.writeSuspect cx n st = st.modify n fun r => { r with state := .suspect } := by
  obtain ⟨same, none_⟩ := Store.correct_of_found h
  simp only [Rt.writeSuspect, same, none_, List.length_nil, if_true]

theorem Store.suspected_get (wf : Table.wf Record.blank st.records) {lastSeen : FrameCount} {damage : List Damage} :
    (st.suspected n lastSeen damage).get n = { st.get n with state := .suspect, lastSeen := lastSeen } :=
  Store.get_modify_same (g := fun r => { r with state := .suspect, lastSeen := lastSeen }) wf

/-- The last part of a condemnation: a LIVE record recomputed. -/
theorem Rt.condemn_end (wf : Table.wf Record.blank st.records) {lastSeen : FrameCount} {damage : List Damage}
    (whole : (st.suspected n lastSeen damage).found n isDriftWord = []) :
    (if (st.get n).state == .live && true then Dt.recomputeFallback cx .slew n (st.suspected n lastSeen damage)
      else st.suspected n lastSeen damage) = st.condemned cx n lastSeen damage := by
  rw [Dt.recomputeFallback_of_found whole, Store.suspected_get wf, Store.condemned, Bool.and_true]
  simp only [beq_iff_eq]
  rfl

/-- A record found SUSPECT as its condemnation has it. -/
theorem Store.suspected_of {lastSeen : FrameCount} {damage : List Damage} {f : Record → Record}
    (h : f (st.get n) = { st.get n with state := .suspect, lastSeen := lastSeen }) :
    ({ st.modify n f with damage := damage } : Store).addBoth .recordSuspect = st.suspected n lastSeen damage := by
  rw [Store.suspected, Store.modify_congr (g := fun r => { r with state := .suspect, lastSeen := lastSeen }) h]

/-- A record condemned for its identity word, which is rebuilt from the Identity Index (R151, R152). -/
theorem Rt.condemn_identity (wf : Table.wf Record.blank st.records) (hd : st.damage = [⟨n, .identity, bits⟩])
    (named : identityOfSlot cx.index n = some ((st.get n).identity, (st.get n).batch)) :
    Rt.condemn cx .slew false true true n st = st.condemned cx n (st.get n).lastSeen [] := by
  have marked : Rt.writeSuspect cx n st = st.modify n fun r => { r with state := .suspect } :=
    Rt.writeSuspect_of_found (Store.found_eq_nil (.inl hd) rfl)
  have rebuilt : (Rt.rebuildIdentity cx n (st.modify n fun r => { r with state := .suspect })).addBoth .recordSuspect =
      st.suspected n (st.get n).lastSeen [] := by
    rw [← Store.suspected_of (f := fun r => { r with state := .suspect, identity := (st.get n).identity, batch := (st.get n).batch }) rfl,
      Rt.rebuildIdentity, named]
    dsimp only
    rw [Store.modify_modify wf, Store.mend, show (st.modify n _).damage = [⟨n, .identity, bits⟩] from hd]
    simp [isIdentityWord]
  rw [← Rt.condemn_end wf (Store.found_eq_nil (w := .identity) (bits := bits) (.inr rfl) rfl), ← rebuilt, ← marked]
  rfl

/-- A record condemned for its state word, which is rebuilt from the Seat Table (R151, R152). -/
theorem Rt.condemn_state (wf : Table.wf Record.blank st.records) (hd : st.damage = [⟨n, .state, bits⟩])
    (seated : seatOfSlot cx.seats n = (st.get n).seat) :
    Rt.condemn cx .slew true false true n st = st.condemned cx n cx.frame [] := by
  have rebuilt : (Rt.rebuildState cx n st).addBoth .recordSuspect = st.suspected n cx.frame [] := by
    rw [← Store.suspected_of (f := fun r => { r with state := .suspect, seat := (st.get n).seat, lastSeen := cx.frame }) rfl,
      Rt.rebuildState, seated, Store.mend, show (st.modify n _).damage = [⟨n, .state, bits⟩] from hd]
    simp [isStateWord]
  rw [← Rt.condemn_end wf (Store.found_eq_nil (w := .state) (bits := bits) (.inr rfl) rfl), ← rebuilt]
  rfl

/-- A record condemned for a word of its active bank, which is left as found (R151, R152). -/
theorem Rt.condemn_activeBank {g : Group} {i : Nat} {ix : BankIx} (wf : Table.wf Record.blank st.records) (hd : st.damage = [⟨n, .bank ix g i, bits⟩]) :
    Rt.condemn cx .slew false false true n st = st.condemned cx n (st.get n).lastSeen st.damage := by
  have marked : Rt.writeSuspect cx n st = st.modify n fun r => { r with state := .suspect } :=
    Rt.writeSuspect_of_found (Store.found_eq_nil (.inl hd) rfl)
  have left : (st.modify n fun r => { r with state := .suspect }).addBoth .recordSuspect = st.suspected n (st.get n).lastSeen st.damage :=
    Store.suspected_of (f := fun r => { r with state := .suspect }) (damage := st.damage) rfl
  rw [← Rt.condemn_end wf (Store.found_eq_nil (w := .bank ix g i) (bits := bits) (.inl hd) rfl), ← left, ← marked]
  rfl

/-- What a condemnation leaves. -/
structure Store.Condemns (cx : Ctx) (n : Nat) (lastSeen : FrameCount) (damage : List Damage) (st st' : Store) : Prop where
  own : st'.get n = { st.get n with
    state := .suspect, lastSeen := lastSeen
    target := if (st.get n).state = .live then targetsOf cx.limit (cx.fallbackBank (st.get n)) (st.get n).theta (st.get n).hours else (st.get n).target
    ceiling := if (st.get n).state = .live then isLimited cx.limit (cx.fallbackBank (st.get n)) (st.get n).theta (st.get n).hours
      else (st.get n).ceiling }
  others : ∀ k, k ≠ n → st'.get k = st.get k
  frame : st' = { st with records := st'.records, damage := damage, nu := st'.nu }
  nu : st'.nu = if (st.get n).ceiling = false ∧ (st'.get n).ceiling = true then (st.nu.addBoth .recordSuspect).addBoth .ceiling
    else st.nu.addBoth .recordSuspect

theorem Store.condemned_condemns (wf : Table.wf Record.blank st.records) {lastSeen : FrameCount} {damage : List Damage} :
    st.Condemns cx n lastSeen damage (st.condemned cx n lastSeen damage) := by
  have own := Store.suspected_get (n := n) wf (lastSeen := lastSeen) (damage := damage)
  have others : ∀ k, k ≠ n → (st.suspected n lastSeen damage).get k = st.get k := fun k hk =>
    Store.get_modify_ne (g := fun r => { r with state := .suspect, lastSeen := lastSeen }) hk
  have frame : st.suspected n lastSeen damage =
      { st with records := (st.suspected n lastSeen damage).records, damage := damage, nu := st.nu.addBoth .recordSuspect } := rfl
  have wf' : Table.wf Record.blank (st.suspected n lastSeen damage).records :=
    Store.modify_records_wf (g := fun r => { r with state := .suspect, lastSeen := lastSeen }) wf
  unfold Store.condemned
  generalize st.suspected n lastSeen damage = u at *
  have nu : u.nu = st.nu.addBoth .recordSuspect := by rw [frame]
  by_cases live : (st.get n).state = .live
  · rw [if_pos live]
    refine ⟨?_, fun k hk => ?_, ?_, ?_⟩
    · rw [Dt.get_retarget_same wf', own, if_pos live, if_pos live]
      rfl
    · rw [Dt.get_retarget_ne hk, others k hk]
    · have retargeted := Dt.retarget_frame (cx := cx) (after := .slew) (n := n) (bank := cx.fallbackBank (st.get n)) (st := u)
      generalize Dt.retarget _ _ _ _ u = v at retargeted
      conv_lhs => rw [retargeted, frame]
    · rw [Dt.retarget_nu, ← Dt.get_retarget_same wf', nu, own]
  · rw [if_neg live]
    refine ⟨?_, others, ?_, ?_⟩
    · rw [own, if_neg live, if_neg live]
    · rw [nu]
      exact frame
    · rw [own, if_neg, nu]
      rintro ⟨clear, set⟩
      rw [show _ = (st.get n).ceiling from rfl, clear] at set
      cases set

/-! ### The drift words set afresh (R98) -/

/-- The store with a record's drift fields at their known start and no damage. -/
def Store.undrifted (n : Nat) (st : Store) : Store :=
  { st.modify n fun r => { r with theta := none, hours := 0, ceiling := false, regressed := false } with damage := [] }

theorem Dt.reinitialise_eq {part : DriftPart} {i : Nat} (wf : Table.wf Record.blank st.records) (hd : st.damage = [⟨n, .drift part i, bits⟩]) :
    Dt.reinitialise cx n st = Dt.retarget cx .set n (cx.bankInUse (st.get n)).2 (st.undrifted n) := by
  have cleared : Dt.clearDrift n st = st.undrifted n := by
    rw [Dt.clearDrift, Store.undrifted, Store.mend, show (st.modify n _).damage = [⟨n, .drift part i, bits⟩] from hd]
    simp [isDriftWord]
  have clean : (st.undrifted n).damage = [] := rfl
  have own : (st.undrifted n).get n = { st.get n with theta := none, hours := 0, ceiling := false, regressed := false } :=
    Store.get_modify_same (g := fun r => { r with theta := none, hours := 0, ceiling := false, regressed := false }) wf
  rw [Dt.reinitialise, cleared]
  generalize st.undrifted n = u at clean own
  have bank : (cx.bankInUse (st.get n)).2 = (cx.bankInUse (u.get n)).2 := by
    rw [own]
    rfl
  rw [bank]
  simp only [Dt.recomputeFromBank, Store.correct_clean clean, Store.doubles_clean clean, List.length_nil, if_true, Ctx.bankInUse, Ctx.fallbackBank]
  split <;> rfl

/-- What a reinitialisation leaves. -/
structure Store.Reinitialises (cx : Ctx) (n : Nat) (st st' : Store) : Prop where
  own : st'.get n = { st.get n with
    theta := none, hours := 0, regressed := false
    target := targetsOf cx.limit (cx.bankInUse (st.get n)).2 none 0, applied := targetsOf cx.limit (cx.bankInUse (st.get n)).2 none 0
    ceiling := isLimited cx.limit (cx.bankInUse (st.get n)).2 none 0 }
  others : ∀ k, k ≠ n → st'.get k = st.get k
  frame : st' = { st with records := st'.records, damage := [], nu := st'.nu }
  nu : st'.nu = if (st'.get n).ceiling = true then st.nu.addBoth .ceiling else st.nu

theorem Dt.reinitialise_reinitialises {part : DriftPart} {i : Nat} (wf : Table.wf Record.blank st.records)
    (hd : st.damage = [⟨n, .drift part i, bits⟩]) : st.Reinitialises cx n (Dt.reinitialise cx n st) := by
  have own : (st.undrifted n).get n = { st.get n with theta := none, hours := 0, ceiling := false, regressed := false } :=
    Store.get_modify_same (g := fun r => { r with theta := none, hours := 0, ceiling := false, regressed := false }) wf
  have others : ∀ k, k ≠ n → (st.undrifted n).get k = st.get k := fun k hk =>
    Store.get_modify_ne (g := fun r => { r with theta := none, hours := 0, ceiling := false, regressed := false }) hk
  have frame : st.undrifted n = { st with records := (st.undrifted n).records, damage := [] } := rfl
  have wf' : Table.wf Record.blank (st.undrifted n).records :=
    Store.modify_records_wf (g := fun r => { r with theta := none, hours := 0, ceiling := false, regressed := false }) wf
  rw [Dt.reinitialise_eq wf hd]
  generalize st.undrifted n = u at *
  have nu : u.nu = st.nu := by rw [frame]
  have ownT := Dt.get_retarget_same (cx := cx) (after := .set) (n := n) (bank := (cx.bankInUse (st.get n)).2) wf'
  have othersT := fun k hk => Dt.get_retarget_ne (cx := cx) (after := .set) (n := n) (k := k) (bank := (cx.bankInUse (st.get n)).2) (st := u) hk
  have nuT := Dt.retarget_nu (cx := cx) (after := .set) (n := n) (bank := (cx.bankInUse (st.get n)).2) (st := u)
  have frameT := Dt.retarget_frame (cx := cx) (after := .set) (n := n) (bank := (cx.bankInUse (st.get n)).2) (st := u)
  rw [← ownT, nu] at nuT
  generalize Dt.retarget _ _ _ _ u = v at *
  refine ⟨?_, fun k hk => by rw [othersT k hk, others k hk], ?_, ?_⟩
  · rw [ownT, own]
    rfl
  · conv_lhs => rw [frameT, frame]
  · rw [nuT, own]
    simp

/-! ### What a read finds (R150) -/

theorem Rt.consequences_identity {rd : Reader} : Rt.consequences cx rd n [⟨n, .identity, bits⟩] st =
    Rt.condemn cx .slew false true true n (st.foundDouble cx rd n .identity 1) := by
  simp [Rt.consequences, isIdentityWord, isStateWord, isBankWord, isDriftWord]
  rfl

theorem Rt.consequences_state {rd : Reader} : Rt.consequences cx rd n [⟨n, .state, bits⟩] st =
    Rt.condemn cx .slew true false true n (st.foundDouble cx rd n .state 1) := by
  simp [Rt.consequences, isIdentityWord, isStateWord, isBankWord, isDriftWord]
  rfl

theorem Rt.consequences_activeBank {rd : Reader} {w : ArrayWord} {g : Group} {i : Nat} (hw : w = .bank (st.get n).active g i) : Rt.consequences cx rd n [⟨n, w, bits⟩] st =
    Rt.condemn cx .slew false false true n (st.foundDouble cx rd n .activeBank 1) := by
  subst hw
  have other : ((st.get n).pendingIx == (st.get n).active) = false := by cases h : (st.get n).active <;> simp [Record.pendingIx, h, BankIx.other]
  simp [Rt.consequences, isIdentityWord, isStateWord, isBankWord, isDriftWord, other]
  rfl

theorem Rt.consequences_drift {rd : Reader} {part : DriftPart} {i : Nat} : Rt.consequences cx rd n [⟨n, .drift part i, bits⟩] st =
    Dt.reinitialise cx n (st.foundDouble cx rd n .drift 1) := by
  simp [Rt.consequences, isIdentityWord, isStateWord, isBankWord, isDriftWord]

/-- The state with another store. -/
def State.withStore (st : Store) (s : State) : State := { s with store := st }

/-- The finding of an uncorrectable word by READ_RECORD, before its consequences. -/
def State.finds (n : Nat) (loc : Location) (s : State) : Store := s.store.foundDouble s.ctx .rt n loc 1

theorem State.finds_nu {loc : Location} : (s.finds n loc).nu = Nu.count .ded 1 s.store.nu := rfl

theorem Nu.count_events {p : Port} {c : Counter} {k : Nat} {nu : Nu} : (Nu.count c k nu).attached p = nu.attached p ∧ (Nu.count c k nu).sets p = nu.sets p := by
  cases p <;> exact ⟨rfl, rfl⟩

/-- What a condemnation leaves in the state (R151). -/
theorem Store.Condemns.state {loc : Location} {lastSeen : FrameCount} {damage : List Damage}
    (h : (s.finds n loc).Condemns s.ctx n lastSeen damage st) :
    (s.withStore st).store.finding = some ⟨s.ftu.frameCount, n, loc, .rt⟩ ∧ (s.withStore st).store.damage = damage ∧
      (Nu.count .ded 1 s.store.nu).gains [.recordSuspect, .ceiling] (s.withStore st).store.nu ∧
      s.store.nu.adds (s.withStore st).store.nu .recordSuspect True ∧ s.addsCeiling (s.withStore st) ∧
      (s.withStore st).record n = { s.record n with
        state := .suspect, lastSeen := lastSeen
        target := if (s.record n).state = .live then
          targetsOf s.params.headroomLimit (s.ctx.fallbackBank (s.record n)) (s.record n).theta (s.record n).hours else (s.record n).target
        ceiling := if (s.record n).state = .live then
          isLimited s.params.headroomLimit (s.ctx.fallbackBank (s.record n)) (s.record n).theta (s.record n).hours else (s.record n).ceiling } := by
  have others : ∀ k, k ≠ n → (s.withStore st).record k = s.record k := h.others
  have nu : (s.withStore st).store.nu = if (s.record n).ceiling = false ∧ ((s.withStore st).record n).ceiling = true then
      ((Nu.count .ded 1 s.store.nu).addBoth .recordSuspect).addBoth .ceiling else (Nu.count .ded 1 s.store.nu).addBoth .recordSuspect := h.nu
  refine ⟨?_, ?_, ?_, fun p => ?_, fun p => ?_, h.own⟩
  · exact congrArg Store.finding h.frame
  · exact congrArg Store.damage h.frame
  · rw [nu]
    exact (Nu.gains_addBoth (by simp)).trans (Nu.gains_ite (by simp))
  · obtain ⟨attached, sets⟩ := Nu.count_events (p := p) (c := .ded) (k := 1) (nu := s.store.nu)
    rw [Nu.addsAt, nu]
    split <;> simp [Nu.addBoth_pending, attached, sets]
  · obtain ⟨attached, sets⟩ := Nu.count_events (p := p) (c := .ded) (k := 1) (nu := s.store.nu)
    rw [State.rises_iff others, Nu.addsAt, nu]
    split <;> simp [Nu.addBoth_pending, *]

/-- What a reinitialisation leaves in the state (R98). -/
theorem Store.Reinitialises.state (h : (s.finds n .drift).Reinitialises s.ctx n st) :
    (s.withStore st).store.finding = some ⟨s.ftu.frameCount, n, .drift, .rt⟩ ∧ (s.withStore st).store.damage = [] ∧
      (Nu.count .ded 1 s.store.nu).gains [.ceiling] (s.withStore st).store.nu ∧
      s.store.nu.adds (s.withStore st).store.nu .ceiling (((s.withStore st).record n).ceiling = true) ∧
      (s.withStore st).record n = { s.record n with
        theta := none, hours := 0, regressed := false
        target := targetsOf s.params.headroomLimit (s.ctx.bankInUse (s.record n)).2 none 0
        applied := targetsOf s.params.headroomLimit (s.ctx.bankInUse (s.record n)).2 none 0
        ceiling := isLimited s.params.headroomLimit (s.ctx.bankInUse (s.record n)).2 none 0 } := by
  have nu : (s.withStore st).store.nu = if ((s.withStore st).record n).ceiling = true then
      (Nu.count .ded 1 s.store.nu).addBoth .ceiling else Nu.count .ded 1 s.store.nu := h.nu
  refine ⟨congrArg Store.finding h.frame, congrArg Store.damage h.frame, ?_, fun p => ?_, h.own⟩
  · rw [nu]
    exact Nu.gains_ite (by simp)
  · obtain ⟨attached, sets⟩ := Nu.count_events (p := p) (c := .ded) (k := 1) (nu := s.store.nu)
    rw [Nu.addsAt, nu]
    split <;> simp [Nu.addBoth_pending, *]

/-! ### The answer of READ_RECORD (R21) -/

theorem exec_readRecord_answers {p : Port} {tag : Byte} {rest : List Message} (hn : n ≤ 2047) (inUse : (s.record n).inUse = true) (h : s.takes p 0x12 tag (u16 n) rest)
    (read : Rt.read s.ctx .rt n (isReadRecordWord (s.record n).active) s.store = st) :
    exec .readRecord s = .next ((s.withStore st).answered p rest tag .ok (Rt.items n ((s.withStore st).record n) s.freeQueue.length ++
      bankImage (st.bankRead n ((s.withStore st).record n).active ((s.withStore st).record n).activeBank))) := by
  have state : (s.taken p rest).read .rt n (isReadRecordWord (s.record n).active) = (s.withStore st).taken p rest := by
    rw [State.read, State.onStore_taken, State.onStore, read]
    rfl
  exact exec_readRecord_of_read hn inUse h state

theorem Store.bankRead_of_found {bank : Bank} {ix : BankIx} (h : st.found n (isBankWord ix) = []) : st.bankRead n ix bank = bank := by
  simp [Store.bankRead, (Store.correct_of_found h).2]

theorem BankIx.other_beq (ix : BankIx) : (ix == ix.other) = false := by cases ix <;> rfl

theorem BankIx.eq_of_ne_other {ix jx : BankIx} (h : ix ≠ jx.other) : ix = jx := by
  cases ix <;> cases jx <;> simp [BankIx.other] at h ⊢

/-- The words READ_RECORD does not read are those of the pending bank (R21). -/
theorem isReadRecordWord_iff {w : ArrayWord} {ix : BankIx} : isReadRecordWord ix w = true ↔ ∀ g i, w ≠ .bank ix.other g i := by
  cases w with
  | identity => simp [isReadRecordWord, isIdentityWord]
  | state => simp [isReadRecordWord, isStateWord]
  | drift part i => simp [isReadRecordWord, isDriftWord]
  | bank jx g i => cases ix <;> cases jx <;> simp [isReadRecordWord, isIdentityWord, isStateWord, isDriftWord, isBankWord, BankIx.other]

/-- Settles O16. -/
theorem recordReadsAnswerTheFields : Obligations.RecordReadsAnswerTheFields := by
  refine ⟨fun s p tag rest x e clean pos hx known h => ?find, fun s p tag rest x pos hx none_ h => ?missing, fun s p tag rest h => ?zero,
    fun s p tag rest n clean hn inUse h => ?read, fun s p tag rest n clean hn inUse h => ?drift,
    fun s p tag rest n word bits canonical directory damage hn inUse h => ⟨?beside, fun read bit one => ?single, fun read double => ?double⟩⟩
  case find =>
    refine congrArg Host.Outcome.next (Cx.command_leaves (r := .ok _) h (by decide) (by nofun) rfl ?_)
    rw [Rt.findBody_known (State.taken_clean.2 clean) pos hx (by rwa [State.taken_lookup]), State.taken_record]
  case missing =>
    refine congrArg Host.Outcome.next (Cx.command_leaves (r := .bare .noRecord) h (by decide) (by nofun) rfl ?_)
    simp only [Rt.findBody, natAt_beBytes_alone (show x < 256 ^ 6 by omega), if_neg (Nat.ne_of_gt pos), State.taken_lookup, none_]
  case zero =>
    refine congrArg Host.Outcome.next (Cx.command_leaves (r := .badField 0) h (by decide) (by nofun) rfl ?_)
    simp only [Rt.findBody, natAt_beBytes_alone (show 0 < 256 ^ 6 by omega), if_true]
  case read =>
    refine (exec_readRecord_answers hn inUse h (Rt.read_clean clean)).trans ?_
    rw [Store.bankRead_clean clean]
    rfl
  case drift =>
    refine congrArg Host.Outcome.next (Cx.command_leaves (r := .ok _) h (by decide) (by nofun) rfl ?_)
    rw [Dt.readBody_clean (State.taken_clean.2 clean) hn (by rwa [State.taken_record]), State.taken_record]
    cases p <;> rfl
  case beside =>
    rintro ⟨g, i, rfl⟩
    have miss : isReadRecordWord (s.record n).active (.bank (s.record n).active.other g i) = false :=
      Bool.eq_false_iff.2 fun reached => isReadRecordWord_iff.1 reached g i rfl
    refine (exec_readRecord_answers hn inUse h (Rt.read_beside damage (.inr miss))).trans ?_
    rw [Store.bankRead_of_found (ix := ((s.withStore s.store).record n).active) (Store.found_eq_nil (.inl damage) (BankIx.other_beq _))]
    rfl
  case single =>
    refine (exec_readRecord_answers hn inUse h (Rt.read_single damage (isReadRecordWord_iff.2 read) (by simp [one]))).trans ?_
    rw [Store.bankRead_clean rfl]
    rfl
  case double =>
    have f : s.Filed := State.filed_iff.2 ⟨canonical, directory⟩
    have found : Rt.read s.ctx .rt n (isReadRecordWord (s.record n).active) s.store = Rt.consequences s.ctx .rt n [⟨n, word, bits⟩] s.store := by
      rw [Rt.read_double damage (isReadRecordWord_iff.2 read) double]
      exact if_pos inUse
    have answers := fun {st : Store} (store : Rt.read s.ctx .rt n (isReadRecordWord (s.record n).active) s.store = st) =>
      exec_readRecord_answers hn inUse h store
    have image : ∀ {st : Store}, st.damage = [] → st.bankRead n ((s.withStore st).record n).active ((s.withStore st).record n).activeBank =
      ((s.withStore st).record n).activeBank := fun clean => Store.bankRead_clean clean
    -- A condemned record answers as it then stands.
    have condemns := fun (loc : Location) (lastSeen : FrameCount) (left : List Damage) =>
      Store.condemned_condemns (st := s.finds n loc) (cx := s.ctx) (n := n) (lastSeen := lastSeen) (damage := left) canonical.1
    cases word with
    | identity =>
      have store : Rt.read s.ctx .rt n (isReadRecordWord (s.record n).active) s.store =
          Store.condemned s.ctx n (s.record n).lastSeen [] (s.finds n .identity) :=
        found.trans (Rt.consequences_identity.trans (Rt.condemn_identity canonical.1 damage (f.identityOfSlot inUse)))
      have run := answers store
      have whole := condemns .identity (s.record n).lastSeen []
      generalize Store.condemned _ _ _ _ _ = st at run whole
      obtain ⟨finding, mended, gains, suspect, ceiling, own⟩ := whole.state
      refine ⟨s.withStore st, _, run, rfl, whole.others, fun _ => ⟨⟨finding, mended, gains, fun _ => ?_⟩, suspect, ceiling, own⟩, nofun,
        by simp, by simp⟩
      rw [image (st := st) mended, own]
      rfl
    | state =>
      have store : Rt.read s.ctx .rt n (isReadRecordWord (s.record n).active) s.store =
          Store.condemned s.ctx n s.ftu.frameCount [] (s.finds n .state) :=
        found.trans (Rt.consequences_state.trans (Rt.condemn_state canonical.1 damage (State.seatOfSlot_eq canonical f.seated n)))
      have run := answers store
      have whole := condemns .state s.ftu.frameCount []
      generalize Store.condemned _ _ _ _ _ = st at run whole
      obtain ⟨finding, mended, gains, suspect, ceiling, own⟩ := whole.state
      refine ⟨s.withStore st, _, run, rfl, whole.others, nofun, fun _ => ⟨⟨finding, mended, gains, fun _ => ?_⟩, suspect, ceiling, own⟩,
        by simp, by simp⟩
      rw [image (st := st) mended, own]
      rfl
    | bank ix g i =>
      obtain rfl : ix = (s.record n).active := BankIx.eq_of_ne_other fun e => read g i (by rw [e])
      have store : Rt.read s.ctx .rt n (isReadRecordWord (s.record n).active) s.store =
          Store.condemned s.ctx n (s.record n).lastSeen s.store.damage (s.finds n .activeBank) :=
        found.trans ((Rt.consequences_activeBank rfl).trans (Rt.condemn_activeBank canonical.1 damage))
      have run := answers store
      have whole := condemns .activeBank (s.record n).lastSeen s.store.damage
      generalize Store.condemned _ _ _ _ _ = st at run whole
      obtain ⟨finding, left, gains, suspect, ceiling, own⟩ := whole.state
      exact ⟨s.withStore st, _, run, rfl, whole.others, nofun, nofun, fun _ => ⟨⟨finding, left, gains, fun other => absurd rfl (other g i)⟩,
        suspect, ceiling, own⟩, by simp⟩
    | drift part i =>
      have store : Rt.read s.ctx .rt n (isReadRecordWord (s.record n).active) s.store = Dt.reinitialise s.ctx n (s.finds n .drift) :=
        found.trans Rt.consequences_drift
      have run := answers store
      have whole := Dt.reinitialise_reinitialises (st := s.finds n .drift) (cx := s.ctx) (n := n) (bits := bits) (part := part) (i := i)
        canonical.1 damage
      generalize Dt.reinitialise _ _ _ = st at run whole
      obtain ⟨finding, mended, gains, ceiling, own⟩ := whole.state
      refine ⟨s.withStore st, _, run, rfl, whole.others, nofun, nofun, by simp, fun _ => ⟨⟨finding, mended, gains, fun _ => ?_⟩, ceiling, own⟩⟩
      rw [image (st := st) mended, own]
      rfl

end Sys2Proof.Machine
end
